-- ==== Sys2Proof/Word.lean ====
section
/-! DEFINITION. The word types of the machine (00_scope.md R6, 10_state.md, 30_encoding.md R61). -/

namespace Sys2Proof

/-- A general register, a memory cell, a timer: 8 bits, unsigned (R10, R18, R19, R40). -/
abbrev Byte := BitVec 8

/-- PC, I, a stack entry, an opcode: 16 bits, unsigned (R13, R15, R16, R60). -/
abbrev Word := BitVec 16

/-- A register selector `X` or `Y` (R61): every value selects one of exactly 16 registers (R63). -/
abbrev Reg := BitVec 4

/-- The 4-bit immediate `N`, or an ignored low nibble (R61, R68). -/
abbrev Nibble := BitVec 4

/-- The 12-bit address immediate `NNN` (R61). -/
abbrev Addr12 := BitVec 12

/-- The selector of VF, the flag register `V[15]` (R9, R11). -/
abbrev VF : Reg := 15#4

/-- `MEM_SIZE` (R4): bytes of memory, fixed. -/
abbrev memSize : Nat := 4096

/-- `PROG_BASE` (R4): load address of the program and reset value of PC, fixed. -/
abbrev progBase : Nat := 0x200

/-- The longest program image that fits, 3584 bytes (20_memory.md R45). -/
abbrev maxImage : Nat := memSize - progBase

end Sys2Proof
end

