-- ==== Sys2Proof/Machine/Flags.lean ====
section
/-! DEFINITION. Results and flags of the arithmetic (41_alu.md R112), computed on natural numbers and
narrowed at the end, and the flag of FX1E (42_index_memory.md R121). -/

namespace Sys2Proof.Machine

/-- A flag as VF holds it: 1 or 0 (10_state.md R11). -/
def flagByte (b : Bool) : Byte := if b then 1 else 0

/-- `(x + y) mod 256`. -/
def addResult (x y : Byte) : Byte := BitVec.ofNat 8 (x.toNat + y.toNat)
/-- Carry out of `x + y`. -/
def addFlag (x y : Byte) : Byte := flagByte (255 < x.toNat + y.toNat)

/-- `(x - y) mod 256`: `x - y + 256` when `x < y`. -/
def subResult (x y : Byte) : Byte := BitVec.ofNat 8 (x.toNat + 256 - y.toNat)
/-- No borrow of `x - y`. -/
def subFlag (x y : Byte) : Byte := flagByte (y.toNat ≤ x.toNat)

/-- `s div 2`. -/
def shrResult (s : Byte) : Byte := BitVec.ofNat 8 (s.toNat / 2)
/-- The bit shifted out, `s[0]`. -/
def shrFlag (s : Byte) : Byte := flagByte (s.getLsbD 0)

/-- `(s * 2) mod 256`. -/
def shlResult (s : Byte) : Byte := BitVec.ofNat 8 (s.toNat * 2)
/-- The bit shifted out, `s[7]`. -/
def shlFlag (s : Byte) : Byte := flagByte (s.getLsbD 7)

/-- FX1E's sum in I: 12 bits under `I_ADD_TRUNC12`, else 16 bits. -/
def addIResult (trunc12 : Bool) (i : Word) (x : Byte) : Word :=
  BitVec.ofNat 16 (if trunc12 then (i.toNat + x.toNat) % 4096 else i.toNat + x.toNat)
/-- FX1E's flag: the sum exceeds 0xFFF. -/
def addIFlag (i : Word) (x : Byte) : Byte := flagByte (0xFFF < i.toNat + x.toNat)

end Sys2Proof.Machine
end

