-- ==== Sys2Proof/Syntax.lean ====
section
/-! DEFINITION. The instructions: one constructor per row of the opcode map (30_encoding.md R65) and one
for the unrecognised word (R67). Every field of a word is kept, the ignored ones (R68) too, so that
decoding drops no bit. -/

namespace Sys2Proof

/-- The 35 instructions of R65, in the table's order, and the unrecognised word of R67. -/
inductive Instr where
  /-- row 1, 0NNN: no-op (R80) -/
  | sys (nnn : Addr12)
  /-- row 2, 00E0: clear the display (R135) -/
  | cls
  /-- row 3, 00EE: return (R81) -/
  | ret
  /-- row 4, 1NNN: jump (R82) -/
  | jp (nnn : Addr12)
  /-- row 5, 2NNN: call (R83) -/
  | call (nnn : Addr12)
  /-- row 6, 3XNN: skip if Vx = NN (R84) -/
  | seImm (x : Reg) (nn : Byte)
  /-- row 7, 4XNN: skip if Vx ≠ NN (R85) -/
  | sneImm (x : Reg) (nn : Byte)
  /-- row 8, 5XYn: skip if Vx = Vy (R86); `n` is not examined (R64, R68) -/
  | seReg (x y : Reg) (n : Nibble)
  /-- row 9, 6XNN: Vx ← NN (R100) -/
  | ldImm (x : Reg) (nn : Byte)
  /-- row 10, 7XNN: Vx ← Vx + NN, no flag (R101) -/
  | addImm (x : Reg) (nn : Byte)
  /-- row 11, 8XY0: Vx ← Vy (R102) -/
  | ldReg (x y : Reg)
  /-- row 12, 8XY1: Vx ← Vx OR Vy (R103) -/
  | orReg (x y : Reg)
  /-- row 13, 8XY2: Vx ← Vx AND Vy (R104) -/
  | andReg (x y : Reg)
  /-- row 14, 8XY3: Vx ← Vx XOR Vy (R105) -/
  | xorReg (x y : Reg)
  /-- row 15, 8XY4: Vx ← Vx + Vy, VF = carry (R106) -/
  | addReg (x y : Reg)
  /-- row 16, 8XY5: Vx ← Vx − Vy, VF = no borrow (R107) -/
  | subReg (x y : Reg)
  /-- row 17, 8XY6: shift right (R108); `y` is the source only under Q_SHIFT -/
  | shrReg (x y : Reg)
  /-- row 18, 8XY7: Vx ← Vy − Vx, VF = no borrow (R109) -/
  | subnReg (x y : Reg)
  /-- row 19, 8XYE: shift left (R110); `y` is the source only under Q_SHIFT -/
  | shlReg (x y : Reg)
  /-- row 20, 9XYn: skip if Vx ≠ Vy (R87); `n` is not examined (R64, R68) -/
  | sneReg (x y : Reg) (n : Nibble)
  /-- row 21, ANNN: I ← NNN (R120) -/
  | ldI (nnn : Addr12)
  /-- row 22, BNNN: jump to NNN + V0, or NNN + Vx under Q_JUMP (R88) -/
  | jpV0 (nnn : Addr12)
  /-- row 23, CXNN: Vx ← random AND NN (R111) -/
  | rnd (x : Reg) (nn : Byte)
  /-- row 24, DXYN: draw N sprite rows at (Vx, Vy) (R136) -/
  | drw (x y : Reg) (n : Nibble)
  /-- row 25, EX9E: skip if key Vx is pressed (R145) -/
  | skp (x : Reg)
  /-- row 26, EXA1: skip if key Vx is not pressed (R146) -/
  | sknp (x : Reg)
  /-- row 27, FX07: Vx ← DT (R148) -/
  | ldVxDT (x : Reg)
  /-- row 28, FX0A: wait for a key (R147) -/
  | ldVxK (x : Reg)
  /-- row 29, FX15: DT ← Vx (R149) -/
  | ldDTVx (x : Reg)
  /-- row 30, FX18: ST ← Vx (R150) -/
  | ldSTVx (x : Reg)
  /-- row 31, FX1E: I ← I + Vx, VF = out of range (R121) -/
  | addI (x : Reg)
  /-- row 32, FX29: I ← address of glyph Vx (R122) -/
  | ldF (x : Reg)
  /-- row 33, FX33: store the three decimal digits of Vx at I (R123) -/
  | ldB (x : Reg)
  /-- row 34, FX55: store V0 to Vx at I (R124) -/
  | store (x : Reg)
  /-- row 35, FX65: load V0 to Vx from I (R125) -/
  | load (x : Reg)
  /-- the catch-all row: a word of R67, a no-op (R89) -/
  | unrecognised (w : Word)
deriving DecidableEq, Repr

end Sys2Proof
end

