-- ==== Sys2Proof/WellFormed.lean ====
section
/-! DEFINITION. Which terms of `Instr` stand for a word of their own row (30_encoding.md R65 to R67). -/

namespace Sys2Proof

/-- The unrecognised space, as 30_encoding.md R67 lists it. -/
def isUnrecognised (w : Word) : Bool :=
  let low  := w.toNat % 16
  let byte := w.toNat % 256
  match w.toNat / 4096 with
  | 0x8 => [0x8, 0x9, 0xA, 0xB, 0xC, 0xD, 0xF].contains low
  | 0xE => !([0x9E, 0xA1].contains byte)
  | 0xF => !([0x07, 0x0A, 0x15, 0x18, 0x1E, 0x29, 0x33, 0x55, 0x65].contains byte)
  | _   => false

/-- A SYS word is any word of family 0 other than 00E0 and 00EE (40_flow.md R80); an `unrecognised`
term carries a word of R67; every operand value of every other row is legal (R63, R68). -/
def Instr.wf : Instr → Bool
  | .sys nnn        => nnn != 0x0E0#12 && nnn != 0x0EE#12
  | .unrecognised w => isUnrecognised w
  | .cls | .ret | .jp _ | .call _ | .seImm _ _ | .sneImm _ _ | .seReg _ _ _ | .ldImm _ _
  | .addImm _ _ | .ldReg _ _ | .orReg _ _ | .andReg _ _ | .xorReg _ _ | .addReg _ _ | .subReg _ _
  | .shrReg _ _ | .subnReg _ _ | .shlReg _ _ | .sneReg _ _ _ | .ldI _ | .jpV0 _ | .rnd _ _
  | .drw _ _ _ | .skp _ | .sknp _ | .ldVxDT _ | .ldVxK _ | .ldDTVx _ | .ldSTVx _ | .addI _ | .ldF _
  | .ldB _ | .store _ | .load _ => true

end Sys2Proof
end

