-- ==== Sys2Proof/Decode.lean ====
section
/-! DEFINITION. Decoding (30_encoding.md R61 to R68, R71) and, after it, the encoder. -/

namespace Sys2Proof

/-- The family nibble `op[15:12]` (R61). -/
def fieldF (op : Word) : Nibble := op.extractLsb' 12 4
/-- `X = op[11:8]` (R61). -/
def fieldX (op : Word) : Reg := op.extractLsb' 8 4
/-- `Y = op[7:4]` (R61). -/
def fieldY (op : Word) : Reg := op.extractLsb' 4 4
/-- `N = op[3:0]` (R61). -/
def fieldN (op : Word) : Nibble := op.extractLsb' 0 4
/-- `NN = op[7:0]` (R61). -/
def fieldNN (op : Word) : Byte := op.extractLsb' 0 8
/-- `NNN = op[11:0]` (R61). -/
def fieldNNN (op : Word) : Addr12 := op.extractLsb' 0 12

/-- Family 0: 00E0 and 00EE are matched on all 16 bits, every other word is SYS (R64, R66). -/
def decodeFamily0 (op : Word) : Instr :=
  match fieldNNN op with
  | 0x0E0#12 => .cls
  | 0x0EE#12 => .ret
  | _        => .sys (fieldNNN op)

/-- Family 8, selected by the low nibble (R64, R65 rows 11 to 19). -/
def decodeFamily8 (op : Word) : Instr :=
  match fieldN op with
  | 0x0#4 => .ldReg (fieldX op) (fieldY op)
  | 0x1#4 => .orReg (fieldX op) (fieldY op)
  | 0x2#4 => .andReg (fieldX op) (fieldY op)
  | 0x3#4 => .xorReg (fieldX op) (fieldY op)
  | 0x4#4 => .addReg (fieldX op) (fieldY op)
  | 0x5#4 => .subReg (fieldX op) (fieldY op)
  | 0x6#4 => .shrReg (fieldX op) (fieldY op)
  | 0x7#4 => .subnReg (fieldX op) (fieldY op)
  | 0xE#4 => .shlReg (fieldX op) (fieldY op)
  | _     => .unrecognised op

/-- Family E, selected by the low byte (R64, R65 rows 25 and 26). -/
def decodeFamilyE (op : Word) : Instr :=
  match fieldNN op with
  | 0x9E#8 => .skp (fieldX op)
  | 0xA1#8 => .sknp (fieldX op)
  | _      => .unrecognised op

/-- Family F, selected by the low byte (R64, R65 rows 27 to 35). -/
def decodeFamilyF (op : Word) : Instr :=
  match fieldNN op with
  | 0x07#8 => .ldVxDT (fieldX op)
  | 0x0A#8 => .ldVxK (fieldX op)
  | 0x15#8 => .ldDTVx (fieldX op)
  | 0x18#8 => .ldSTVx (fieldX op)
  | 0x1E#8 => .addI (fieldX op)
  | 0x29#8 => .ldF (fieldX op)
  | 0x33#8 => .ldB (fieldX op)
  | 0x55#8 => .store (fieldX op)
  | 0x65#8 => .load (fieldX op)
  | _      => .unrecognised op

/-- The instruction a word stands for: total, and a function of the 16 bits alone (R66, R71). -/
def decodeWord (op : Word) : Instr :=
  match fieldF op with
  | 0x0#4 => decodeFamily0 op
  | 0x1#4 => .jp (fieldNNN op)
  | 0x2#4 => .call (fieldNNN op)
  | 0x3#4 => .seImm (fieldX op) (fieldNN op)
  | 0x4#4 => .sneImm (fieldX op) (fieldNN op)
  | 0x5#4 => .seReg (fieldX op) (fieldY op) (fieldN op)
  | 0x6#4 => .ldImm (fieldX op) (fieldNN op)
  | 0x7#4 => .addImm (fieldX op) (fieldNN op)
  | 0x8#4 => decodeFamily8 op
  | 0x9#4 => .sneReg (fieldX op) (fieldY op) (fieldN op)
  | 0xA#4 => .ldI (fieldNNN op)
  | 0xB#4 => .jpV0 (fieldNNN op)
  | 0xC#4 => .rnd (fieldX op) (fieldNN op)
  | 0xD#4 => .drw (fieldX op) (fieldY op) (fieldN op)
  | 0xE#4 => decodeFamilyE op
  | _     => decodeFamilyF op

/-- A row of the opcode map: a word selects it when `op AND mask = value` (R65). -/
structure OpcodeRow where
  number : Nat
  mask   : Word
  value  : Word
deriving DecidableEq, Repr

/-- The opcode map of R65 as its table gives it, the two FIXED rows before row 1 (they take priority). -/
def opcodeMap : List OpcodeRow :=
  [⟨2, 0xFFFF, 0x00E0⟩, ⟨3, 0xFFFF, 0x00EE⟩, ⟨1, 0xF000, 0x0000⟩, ⟨4, 0xF000, 0x1000⟩, ⟨5, 0xF000, 0x2000⟩, ⟨6, 0xF000, 0x3000⟩] ++
  [⟨7, 0xF000, 0x4000⟩, ⟨8, 0xF000, 0x5000⟩, ⟨9, 0xF000, 0x6000⟩, ⟨10, 0xF000, 0x7000⟩, ⟨11, 0xF00F, 0x8000⟩, ⟨12, 0xF00F, 0x8001⟩] ++
  [⟨13, 0xF00F, 0x8002⟩, ⟨14, 0xF00F, 0x8003⟩, ⟨15, 0xF00F, 0x8004⟩, ⟨16, 0xF00F, 0x8005⟩, ⟨17, 0xF00F, 0x8006⟩, ⟨18, 0xF00F, 0x8007⟩] ++
  [⟨19, 0xF00F, 0x800E⟩, ⟨20, 0xF000, 0x9000⟩, ⟨21, 0xF000, 0xA000⟩, ⟨22, 0xF000, 0xB000⟩, ⟨23, 0xF000, 0xC000⟩, ⟨24, 0xF000, 0xD000⟩] ++
  [⟨25, 0xF0FF, 0xE09E⟩, ⟨26, 0xF0FF, 0xE0A1⟩, ⟨27, 0xF0FF, 0xF007⟩, ⟨28, 0xF0FF, 0xF00A⟩, ⟨29, 0xF0FF, 0xF015⟩, ⟨30, 0xF0FF, 0xF018⟩] ++
  [⟨31, 0xF0FF, 0xF01E⟩, ⟨32, 0xF0FF, 0xF029⟩, ⟨33, 0xF0FF, 0xF033⟩, ⟨34, 0xF0FF, 0xF055⟩, ⟨35, 0xF0FF, 0xF065⟩]

/-- The number of the row a word selects, 36 for the catch-all (R65, R67). -/
def rowSelected (op : Word) : Nat :=
  match opcodeMap.find? (fun r => op &&& r.mask == r.value) with
  | some r => r.number
  | none   => 36

/-- The row of R65 an instruction belongs to, 36 for the unrecognised word. -/
def Instr.row : Instr → Nat
  | .sys _ => 1
  | .cls => 2
  | .ret => 3
  | .jp _ => 4
  | .call _ => 5
  | .seImm _ _ => 6
  | .sneImm _ _ => 7
  | .seReg _ _ _ => 8
  | .ldImm _ _ => 9
  | .addImm _ _ => 10
  | .ldReg _ _ => 11
  | .orReg _ _ => 12
  | .andReg _ _ => 13
  | .xorReg _ _ => 14
  | .addReg _ _ => 15
  | .subReg _ _ => 16
  | .shrReg _ _ => 17
  | .subnReg _ _ => 18
  | .shlReg _ _ => 19
  | .sneReg _ _ _ => 20
  | .ldI _ => 21
  | .jpV0 _ => 22
  | .rnd _ _ => 23
  | .drw _ _ _ => 24
  | .skp _ => 25
  | .sknp _ => 26
  | .ldVxDT _ => 27
  | .ldVxK _ => 28
  | .ldDTVx _ => 29
  | .ldSTVx _ => 30
  | .addI _ => 31
  | .ldF _ => 32
  | .ldB _ => 33
  | .store _ => 34
  | .load _ => 35
  | .unrecognised _ => 36

/-- The only way bytes can fail to be an instruction: there are fewer than two of them. -/
inductive DecodeError where
  | truncated
deriving DecidableEq, Repr

/-- Two bytes as one opcode, the first the high byte: big-endian (20_memory.md R46, R48). -/
def composeWord (first second : Byte) : Word := first ++ second

/-- Decode the instruction at the head of a byte sequence and answer the bytes after it (R60). -/
def decode : List Byte → Except DecodeError (Instr × List Byte)
  | hi :: lo :: rest => .ok (decodeWord (composeWord hi lo), rest)
  | _                => .error .truncated

/-- The two bytes of an opcode as memory holds them, the high byte at the lower address (R46). -/
def wordBytes (op : Word) : List Byte := [op.extractLsb' 8 8, op.extractLsb' 0 8]

/-- Format NNN (R62). -/
def packNNN (f : Nibble) (nnn : Addr12) : Word := f ++ nnn
/-- Formats XNN and Xnn (R62). -/
def packXNN (f : Nibble) (x : Reg) (nn : Byte) : Word := f ++ x ++ nn
/-- Formats XYn and XYN (R62). -/
def packXYN (f : Nibble) (x y : Reg) (n : Nibble) : Word := f ++ x ++ y ++ n

/-- The word of a well-formed instruction, row by row from the opcode map (R65). -/
def encode : Instr → Word
  | .sys nnn        => packNNN 0x0 nnn
  | .cls            => 0x00E0
  | .ret            => 0x00EE
  | .jp nnn         => packNNN 0x1 nnn
  | .call nnn       => packNNN 0x2 nnn
  | .seImm x nn     => packXNN 0x3 x nn
  | .sneImm x nn    => packXNN 0x4 x nn
  | .seReg x y n    => packXYN 0x5 x y n
  | .ldImm x nn     => packXNN 0x6 x nn
  | .addImm x nn    => packXNN 0x7 x nn
  | .ldReg x y      => packXYN 0x8 x y 0x0
  | .orReg x y      => packXYN 0x8 x y 0x1
  | .andReg x y     => packXYN 0x8 x y 0x2
  | .xorReg x y     => packXYN 0x8 x y 0x3
  | .addReg x y     => packXYN 0x8 x y 0x4
  | .subReg x y     => packXYN 0x8 x y 0x5
  | .shrReg x y     => packXYN 0x8 x y 0x6
  | .subnReg x y    => packXYN 0x8 x y 0x7
  | .shlReg x y     => packXYN 0x8 x y 0xE
  | .sneReg x y n   => packXYN 0x9 x y n
  | .ldI nnn        => packNNN 0xA nnn
  | .jpV0 nnn       => packNNN 0xB nnn
  | .rnd x nn       => packXNN 0xC x nn
  | .drw x y n      => packXYN 0xD x y n
  | .skp x          => packXNN 0xE x 0x9E
  | .sknp x         => packXNN 0xE x 0xA1
  | .ldVxDT x       => packXNN 0xF x 0x07
  | .ldVxK x        => packXNN 0xF x 0x0A
  | .ldDTVx x       => packXNN 0xF x 0x15
  | .ldSTVx x       => packXNN 0xF x 0x18
  | .addI x         => packXNN 0xF x 0x1E
  | .ldF x          => packXNN 0xF x 0x29
  | .ldB x          => packXNN 0xF x 0x33
  | .store x        => packXNN 0xF x 0x55
  | .load x         => packXNN 0xF x 0x65
  | .unrecognised w => w

/-- The opcode of the table's numbering: `nbits` bits of `w`, bit 0 the least significant bit of the one
16-bit word; bits above `nbits` are 0. -/
def tableWord (nbits w : Nat) : Word := BitVec.ofNat 16 (w % 2 ^ nbits)

/-- What the decoder reads from the bytes of a table word, laid out as memory holds them. -/
def decodeTableWord (nbits w : Nat) : Option Instr :=
  match decode (wordBytes (tableWord nbits w)) with
  | .ok (i, _) => some i
  | .error _   => none

end Sys2Proof
end

