-- ==== Sys2Proof/Config.lean ====
section
/-! DEFINITION. The parameters of 00_scope.md R4 as plain data, their legal values and defaults, and
the model's free values. -/

namespace Sys2Proof

/-- `STACK_CAP` (R4, R16): the legal values are 16 and 32. -/
inductive StackCap where
  | c16
  | c32
deriving DecidableEq, Repr

/-- The capacity as a number of entries. -/
abbrev StackCap.size : StackCap → Nat
  | .c16 => 16
  | .c32 => 32

/-- `KeySelect` (R4, 44_keys_timers.md R147): which pressed key FX0A reports when several are down.
`lowest` is the default; `anyPressed` leaves the choice free among the pressed keys (the free value
`Config.freeKey`), which covers every function the spec admits. -/
inductive KeySelect where
  | lowest
  | anyPressed
deriving DecidableEq, Repr

/-- The model parameters of R4 whose value is open. Fixed quantities are constants of Word.lean;
`TIMER_HZ` is `Config.timerHz`. The quirk flags are sampled at reset and stand in State (R21). -/
structure Config where
  stackCap    : StackCap
  fbW         : Nat
  fbH         : Nat
  fontBase    : Nat
  font        : Vector Byte 80
  cpuHz       : Rat
  frameHz     : Rat
  keySelect   : KeySelect
  iAddTrunc12 : Bool
deriving DecidableEq, Repr

/-- The legal parameter values: R4 for the framebuffer, 20_memory.md R42 for the font base, and rates
that are positive (60_exceptions.md R171). -/
abbrev Config.Legal (c : Config) : Prop :=
  8 ≤ c.fbW ∧ 15 ≤ c.fbH ∧ c.fontBase + 80 ≤ progBase ∧ 0 < c.cpuHz ∧ 0 < c.frameHz

/-- `TIMER_HZ` = 60, fixed by the source (R4, R171). -/
abbrev Config.timerHz : Rat := 60

/-- The 80 glyph bytes of 20_memory.md R44, glyph 0 first (log 9: the spec's general knowledge). -/
def Config.defaultFont : Vector Byte 80 :=
  #v[0xF0, 0x90, 0x90, 0x90, 0xF0,  0x20, 0x60, 0x20, 0x20, 0x70,
     0xF0, 0x10, 0xF0, 0x80, 0xF0,  0xF0, 0x10, 0xF0, 0x10, 0xF0,
     0x90, 0x90, 0xF0, 0x10, 0x10,  0xF0, 0x80, 0xF0, 0x10, 0xF0,
     0xF0, 0x80, 0xF0, 0x90, 0xF0,  0xF0, 0x10, 0x20, 0x40, 0x40,
     0xF0, 0x90, 0xF0, 0x90, 0xF0,  0xF0, 0x90, 0xF0, 0x10, 0xF0,
     0xF0, 0x90, 0xF0, 0x90, 0x90,  0xE0, 0x90, 0xE0, 0x90, 0xE0,
     0xF0, 0x80, 0x80, 0x80, 0xF0,  0xE0, 0x90, 0x90, 0x90, 0xE0,
     0xF0, 0x80, 0xF0, 0x80, 0xF0,  0xF0, 0x80, 0xF0, 0x80, 0x80]

/-- The defaults of R4's table. -/
def Config.default : Config :=
  { stackCap := .c16, fbW := 64, fbH := 32, fontBase := 0x050, font := Config.defaultFont,
    cpuHz := 700, frameHz := 60, keySelect := .lowest, iAddTrunc12 := true }

/-- FREE VALUE (10_state.md R32, U8; log 2): the n-th random byte that CXNN consumes when the host has
injected none. Nothing is known of it. -/
opaque Config.freeRnd : Nat → Byte

/-- FREE VALUE (44_keys_timers.md R147, U18; log 3): the key preferred among several pressed ones under
`KeySelect.anyPressed`. Nothing is known of it. -/
opaque Config.freeKey : BitVec 16 → Reg

end Sys2Proof
end

