-- ==== Sys2Proof/Machine/Framebuffer.lean ====
section
/-! DEFINITION. The framebuffer grid (10_state.md R20) and drawing a sprite on it (43_display.md R136 to
R139). -/

namespace Sys2Proof.Machine

/-- `FB`: rows from the top, in each row the cells from the left (R20). -/
abbrev Framebuffer := List (List Bool)

/-- An all-zero grid of `h` rows of `w` cells. -/
def Framebuffer.blank (w h : Nat) : Framebuffer := List.replicate h (List.replicate w false)

/-- The grid has `h` rows of `w` cells. -/
abbrev Framebuffer.shaped (w h : Nat) (fb : Framebuffer) : Prop :=
  fb.length = h ∧ ∀ row ∈ fb, row.length = w

/-- `FB[y][x]`. -/
def Framebuffer.cell (fb : Framebuffer) (y x : Nat) : Bool := (fb.getD y []).getD x false

/-- `FB[y][x] <- b`. -/
def Framebuffer.setCell (fb : Framebuffer) (y x : Nat) (b : Bool) : Framebuffer :=
  fb.modify y (fun row => row.set x b)

/-- Bit 7 of a sprite byte is column 0, the leftmost (R138). -/
def spriteBit (b : Byte) (col : Nat) : Bool := b.getLsbD (7 - col)

/-- A draw in progress: the grid and whether a set cell has been unset (R139). -/
abbrev Drawing := Framebuffer × Bool

/-- One cell of a draw (R136): a sprite bit of 1 toggles the cell at the wrapped position (R137) and
records a collision if the cell was set (R139); a bit of 0 does nothing. -/
def drawCell (w h x0 y0 row : Nat) (b : Byte) (d : Drawing) (col : Nat) : Drawing :=
  let cx := (x0 + col) % w
  let cy := (y0 + row) % h
  if spriteBit b col then
    (Framebuffer.setCell d.1 cy cx (!(Framebuffer.cell d.1 cy cx)), d.2 || Framebuffer.cell d.1 cy cx)
  else d

/-- The 8 columns of one sprite row (R136). -/
def drawRow (w h x0 y0 row : Nat) (b : Byte) (d : Drawing) : Drawing :=
  (List.range 8).foldl (drawCell w h x0 y0 row b) d

/-- The sprite rows from row number `row` on (R136). -/
def drawRows (w h x0 y0 : Nat) : Nat → List Byte → Drawing → Drawing
  | _, [], d => d
  | row, b :: rest, d => drawRows w h x0 y0 (row + 1) rest (drawRow w h x0 y0 row b d)

/-- A whole sprite: the grid after it and the collision flag, which starts at 0 (R136). -/
def drawSprite (w h x0 y0 : Nat) (rows : List Byte) (fb : Framebuffer) : Drawing :=
  drawRows w h x0 y0 0 rows (fb, false)

end Sys2Proof.Machine
end

