-- ==== Sys2Proof/Machine/Memory.lean ====
section
/-! DEFINITION. The memory array (20_memory.md R40 to R44): a list of (address, byte) pairs in one
canonical form, over the reset contents that an unlisted address reads as. -/

namespace Sys2Proof.Machine

/-- The listed cells, addresses strictly rising, none equal to what its address reads as unlisted. -/
abbrev Memory := List Host.Cell

/-- What an unlisted address reads as: the reset contents, zero with the 80 font bytes at
`FONT_BASE` (R42, R43, R33). -/
def unlistedByte (c : Config) (a : Nat) : Byte :=
  if c.fontBase ≤ a then (c.font[a - c.fontBase]?).getD 0 else 0

/-- The listed byte at an address, if there is one. -/
def Memory.lookup : Memory → Nat → Option Byte
  | [], _ => none
  | e :: r, a => if e.1 = a then some e.2 else Memory.lookup r a

/-- `MEM[a]` (R40). -/
def Memory.read (c : Config) (m : Memory) (a : Nat) : Byte :=
  (Memory.lookup m a).getD (unlistedByte c a)

/-- List a byte at an address, in address order, in place of what was listed there. -/
def Memory.put : Memory → Nat → Byte → Memory
  | [], a, b => [(a, b)]
  | e :: r, a, b =>
    if a < e.1 then (a, b) :: e :: r
    else if a = e.1 then (a, b) :: r
    else e :: Memory.put r a b

/-- Unlist an address. -/
def Memory.erase (m : Memory) (a : Nat) : Memory := m.filter (fun e => e.1 ≠ a)

/-- `MEM[a] <- b` (R40, R49), keeping the canonical form. -/
def Memory.write (c : Config) (m : Memory) (a : Nat) (b : Byte) : Memory :=
  if b = unlistedByte c a then Memory.erase m a else Memory.put m a b

/-- The canonical form. -/
abbrev Memory.wf (c : Config) (m : Memory) : Prop :=
  m.Pairwise (fun e f => e.1 < f.1) ∧ ∀ e ∈ m, e.1 < memSize ∧ e.2 ≠ unlistedByte c e.1

/-- Write the given bytes at `base`, `base + 1`, …, in address order (R52). -/
def Memory.writeList (c : Config) (m : Memory) (base : Nat) : List Byte → Memory
  | [] => m
  | b :: rest => Memory.writeList c (Memory.write c m base b) (base + 1) rest

/-- The program image at consecutive addresses from `base` (R45: byte `i` goes to `base + i`). -/
def Memory.load (c : Config) (m : Memory) (base : Nat) : List Byte → Memory
  | [] => m
  | b :: rest => Memory.write c (Memory.load c m (base + 1) rest) base b

end Sys2Proof.Machine
end

