-- ==== Sys2Proof/Machine/State.lean ====
section
/-! DEFINITION. The state of the machine (10_state.md R10 to R33), its inputs and queued events, the ways
a step can stop, and the state after reset. -/

namespace Sys2Proof.Machine

/-- The two fatal conditions (60_exceptions.md R160). -/
inductive Cause where
  | stackOverflow
  | stackUnderflow
deriving DecidableEq, Repr

/-- `STATUS` (10_state.md R22): running, or the cause and the address of the instruction that raised it. -/
inductive Status where
  | running
  | fatal (cause : Cause) (addr : Word)
deriving DecidableEq, Repr

/-- `Q_SHIFT`, `Q_LOADSTORE`, `Q_JUMP` (10_state.md R21). -/
structure Quirks where
  shift     : Bool
  loadStore : Bool
  jump      : Bool
deriving DecidableEq, Repr

/-- `LAST[CPU]`, `LAST[TIMER]`, `LAST[FRAME]`: clock readings in seconds (10_state.md R23, log 4). -/
structure LastTicks where
  cpu   : Rat
  timer : Rat
  frame : Rat
deriving DecidableEq, Repr

/-- What the block shows the outside at single moments: the pulses `cleared` and `drew` (43_display.md
R140) and the snapshot handed over at a frame presentation (60_exceptions.md R170, R180). -/
inductive Output where
  | cleared
  | drew
  | presented (snapshot : Framebuffer)
deriving DecidableEq, Repr

/-- What the host can do (60_exceptions.md R175 to R182; 00_scope.md R5). -/
inductive HostAction where
  /-- drive the 16 key levels (R179) -/
  | setKeys (levels : BitVec 16)
  /-- drive the quirk straps, sampled at the next reset release only (R178) -/
  | setStraps (levels : Quirks)
  /-- inject random bytes for the next CXNN steps (10_state.md R32) -/
  | supplyRnd (bytes : List Byte)
  /-- drive the pause level (R182) -/
  | setPause (level : Bool)
  /-- the single-step pulse (R182) -/
  | stepPulse
  /-- the external shutdown request (R181) -/
  | quit
  /-- reset with a program image, released at the clock reading `now` (R176, R177; 70_reset_and_hazards.md R190) -/
  | reset (rom : List Byte) (now : Rat)
deriving DecidableEq, Repr

/-- The events of 00_scope.md R5, and a scheduler pass at a clock reading (60_exceptions.md R172). -/
inductive Event where
  | cpu
  | tick
  | present
  | pass (now : Rat)
  | host (action : HostAction)
deriving DecidableEq, Repr

/-- The machine. Fields `v` to `paused` are the state of 10_state.md R24; `keys` to `quit` are input
levels and injected bytes that a step reads; `cfg` holds the parameters of 00_scope.md R4; `out` and
`agenda` are the model's own (log 1, log 7). -/
structure State where
  /-- `V[0..15]` (R10) -/
  v        : Vector Byte 16
  /-- `PC` (R13) -/
  pc       : Word
  /-- `I` (R15) -/
  i        : Word
  /-- `STACK[0..STACK_CAP-1]` (R16) -/
  stack    : List Word
  /-- `SP`, the count of valid entries (R16) -/
  sp       : Nat
  /-- `DT` (R18) -/
  dt       : Byte
  /-- `ST` (R19) -/
  st       : Byte
  /-- `FB` (R20) -/
  fb       : Framebuffer
  /-- `STATUS` (R22) -/
  status   : Status
  /-- `MEM` (R40): the cells that differ from the reset contents -/
  mem      : Memory
  /-- the quirk flags sampled at reset release (R21) -/
  quirks   : Quirks
  /-- `LAST[d]` (R23) -/
  last     : LastTicks
  /-- `PAUSED` (R23) -/
  paused   : Bool
  /-- `key(0)` to `key(15)` as bits 0 to 15 (R31) -/
  keys     : BitVec 16
  /-- the strap inputs (60_exceptions.md R178) -/
  straps   : Quirks
  /-- random bytes the host has injected, first used first (R32) -/
  rndQueue : List Byte
  /-- how many random bytes CXNN has consumed: the counter of the free value (log 2) -/
  draws    : Nat
  /-- the quit request (60_exceptions.md R181) -/
  quit     : Bool
  /-- the parameters of 00_scope.md R4 (log 5) -/
  cfg      : Config
  /-- output events so far, newest first (log 7) -/
  out      : List Output
  /-- events still to happen, first next; when empty, a CPU step is next (log 1) -/
  agenda   : List Event
deriving DecidableEq, Repr

/-- Why the machine stands still with a fault. -/
inductive Fault where
  /-- The machine is in `Fatal(StackOverflow, addr)`: no CPU step happens until reset (60_exceptions.md
  R163). Raised by the step that would be the next CPU step, never by an instruction. Safe. -/
  | stackOverflow (addr : Word)
  /-- The machine is in `Fatal(StackUnderflow, addr)`, in the same way. Safe. -/
  | stackUnderflow (addr : Word)
deriving DecidableEq, Repr

/-- Why a step has no successor state (00_scope.md R8 outcome (c)). -/
inductive Refusal where
  /-- An instruction that has no meaning yet; no arm of exec raises it now. Safe. -/
  | notModelled (mnemonic : String)
  /-- A fetch, DXYN, FX33, FX55 or FX65 touches `addr`, the last byte address of the access, above 0xFFF
  (20_memory.md R50, decision D7). Raised before any write. Safe. -/
  | outOfRange (addr : Nat)
  /-- Reset with a program image of `len` bytes, more than 3584: the load is refused and the machine is
  not released (20_memory.md R45, 70_reset_and_hazards.md R193). Safe. -/
  | imageTooLong (len : Nat)
deriving DecidableEq, Repr

/-- The outcome of a step or of an instruction. -/
abbrev Result := Host.Outcome State Fault Refusal

/-- The machine right after reset with the default parameters, no program image, the straps low and the
clock at 0 (10_state.md R33, 70_reset_and_hazards.md R190). -/
def State.reset : State :=
  { v := Vector.replicate 16 0, pc := 0x200, i := 0,
    stack := List.replicate Config.default.stackCap.size 0, sp := 0,
    dt := 0, st := 0, fb := Framebuffer.blank Config.default.fbW Config.default.fbH,
    status := .running, mem := [],
    quirks := { shift := false, loadStore := false, jump := false },
    last := { cpu := 0, timer := 0, frame := 0 }, paused := false,
    keys := 0, straps := { shift := false, loadStore := false, jump := false },
    rndQueue := [], draws := 0, quit := false, cfg := Config.default, out := [], agenda := [] }

end Sys2Proof.Machine
end

