-- ==== Sys2Proof/Machine/Ops.lean ====
section
/-! DEFINITION. The named operations on the state: registers, program counter, call stack, memory
accesses, outputs, and entering a fatal condition. -/

namespace Sys2Proof.Machine

/-! Registers (10_state.md R10, R12, R15) -/

/-- `V[x]`. -/
def State.getV (s : State) (x : Reg) : Byte := s.v[x.toNat]'x.isLt

/-- `V[x] <- b`. -/
def State.setV (s : State) (x : Reg) (b : Byte) : State :=
  { s with v := s.v.set x.toNat b x.isLt }

/-- The flag-write template of 41_alu.md R113: the result to `V[x]` first, the flag to VF last, both
computed by the caller from the operands as they were. -/
def State.setVFlag (s : State) (x : Reg) (r f : Byte) : State := (s.setV x r).setV VF f

/-- `I <- w`. -/
def State.setI (s : State) (w : Word) : State := { s with i := w }

/-! Program counter (10_state.md R13, R14): all arithmetic modulo 2^16 -/

/-- `PC <- w`. -/
def State.setPc (s : State) (w : Word) : State := { s with pc := w }

/-- Fetch advances PC by 2 before execution (R14, 30_encoding.md R70). -/
def State.advancePc (s : State) : State := s.setPc (s.pc + 2)

/-- The skip law (40_flow.md R90): a condition that holds adds exactly 2 to PC, once. -/
def State.skipIf (s : State) (cond : Bool) : State := if cond then s.setPc (s.pc + 2) else s

/-- FX0A's rewind (44_keys_timers.md R147): `PC <- PC - 2`. -/
def State.rewindPc (s : State) : State := s.setPc (s.pc - 2)

/-- A 12-bit address in a 16-bit register (30_encoding.md R63). -/
def zext16 (nnn : Addr12) : Word := nnn.setWidth 16

/-! Call stack (10_state.md R16, R17) -/

/-- `STACK[k]`. -/
def State.stackEntry (s : State) (k : Nat) : Word := s.stack.getD k 0

/-- `push(w)`: nothing when the stack is full (R17: the test comes before any write). -/
def State.push (s : State) (w : Word) : Option State :=
  if s.sp = s.cfg.stackCap.size then none
  else some { s with stack := s.stack.set s.sp w, sp := s.sp + 1 }

/-- `pop()`: nothing when the stack is empty (R17); the popped entry stays in its place. -/
def State.pop (s : State) : Option (Word × State) :=
  if s.sp = 0 then none
  else some (s.stackEntry (s.sp - 1), { s with sp := s.sp - 1 })

/-! Fatal conditions: the machine's only exceptions (60_exceptions.md R160 to R163, R186) -/

/-- Entry to a fatal condition (R161, R162): STATUS records the cause and the address of the instruction,
which is `PC - 2` since fetch has advanced PC (R17); nothing else changes, nothing is saved and control
goes nowhere. There is no return from it (R163, R186): only the reset sequence leaves it (R176). -/
def State.takeFatal (s : State) (cause : Cause) : State :=
  { s with status := .fatal cause (s.pc - 2) }

/-- The fault a machine in a fatal state stands in (R163). -/
def Cause.fault (cause : Cause) (addr : Word) : Fault :=
  match cause with
  | .stackOverflow  => .stackOverflow addr
  | .stackUnderflow => .stackUnderflow addr

/-! Memory (20_memory.md R47 to R50, R59) -/

/-- `MEM[a]`, without the range check. -/
def State.byteAt (s : State) (a : Nat) : Byte := Memory.read s.cfg s.mem a

/-- `MEM[a] <- b`, without the range check. -/
def State.putByte (s : State) (a : Nat) (b : Byte) : State :=
  { s with mem := Memory.write s.cfg s.mem a b }

/-- Every one of the `n` byte addresses from `base` on exists; an access of no byte always does (R50). -/
def inRange (base n : Nat) : Bool := n == 0 || base + n - 1 ≤ 0xFFF

/-- An instruction that accesses the `n` bytes from `base` on: its successor state, or the refusal of R50
before any write. -/
def accessing (base n : Nat) (t : State) : Result :=
  if inRange base n then .next t else .refused (.outOfRange (base + n - 1))

/-- `MemRead(a, 2)` (R48): two bytes, the first the high one, or nothing when `a > 0xFFE`. -/
def State.memRead2 (s : State) (a : Nat) : Option Word :=
  if inRange a 2 then some (composeWord (s.byteAt a) (s.byteAt (a + 1))) else none

/-- The bytes at `base` to `base + n - 1`, in address order. -/
def State.bytesAt (s : State) (base n : Nat) : List Byte :=
  (List.range n).map (fun k => s.byteAt (base + k))

/-- Write the given bytes at `base`, `base + 1`, …, in address order. -/
def State.putBytes (s : State) (base : Nat) (bytes : List Byte) : State :=
  { s with mem := Memory.writeList s.cfg s.mem base bytes }

/-- `V[0..x]`, in register order (42_index_memory.md R124, R125). -/
def State.regsUpTo (s : State) (x : Reg) : List Byte :=
  (List.range (x.toNat + 1)).map (fun k => s.getV (BitVec.ofNat 4 k))

/-- The register file with the given bytes written to `V[k]`, `V[k+1]`, …, in register order. -/
def setRange (v : Vector Byte 16) (k : Nat) : List Byte → Vector Byte 16
  | [] => v
  | b :: rest => setRange (v.set (BitVec.ofNat 4 k).toNat b (BitVec.ofNat 4 k).isLt) (k + 1) rest

/-- Write the given bytes to `V[0]`, `V[1]`, …, in register order. -/
def State.setRegs (s : State) (bytes : List Byte) : State := { s with v := setRange s.v 0 bytes }

/-! Outputs and inputs -/

/-- Record an output event (43_display.md R140, 60_exceptions.md R180). -/
def State.notify (s : State) (o : Output) : State := { s with out := o :: s.out }

/-- The random input `rnd` of the step (10_state.md R32): the next injected byte, else a free value. -/
def State.rndByte (s : State) : Byte :=
  match s.rndQueue with
  | b :: _ => b
  | []     => Config.freeRnd s.draws

/-- One random byte has been consumed. -/
def State.consumeRnd (s : State) : State :=
  { s with rndQueue := s.rndQueue.tail, draws := s.draws + 1 }

/-- `fatal` (60_exceptions.md R180): 1 exactly when STATUS is not Running. -/
def State.fatalOut (s : State) : Bool := s.status != .running

/-- The cause code of 60_exceptions.md R160. -/
def Cause.code : Cause → BitVec 2
  | .stackOverflow  => 1
  | .stackUnderflow => 2

/-- `fatal_cause` and `fatal_addr` (R180); both 0 while running (log 7). -/
def State.fatalInfo (s : State) : BitVec 2 × Word :=
  match s.status with
  | .running       => (0, 0)
  | .fatal cause a => (cause.code, a)

/-- `snd_active` (60_exceptions.md R183); `st` is the field itself. -/
def State.sndActive (s : State) : Bool := s.st != 0

end Sys2Proof.Machine
end

