-- ==== Sys2Proof/Machine/Operands.lean ====
section
/-! DEFINITION. The operand forms: quirk-dependent sources, effective addresses, key lookups, font
addresses, decimal digits. -/

namespace Sys2Proof.Machine

/-- The source of a shift: `V[Y]` if Q_SHIFT else `V[X]` (41_alu.md R108, R110). -/
def State.shiftSource (s : State) (x y : Reg) : Byte :=
  if s.quirks.shift then s.getV y else s.getV x

/-- The register BNNN adds: `V[X]` with `X = NNN[11:8]` if Q_JUMP, else `V[0]` (40_flow.md R88). -/
def State.jumpOffset (s : State) (nnn : Addr12) : Byte :=
  if s.quirks.jump then s.getV (nnn.extractLsb' 8 4) else s.getV 0

/-- The base of every data access: `I` as a natural number, never reduced (20_memory.md R59). -/
def State.base (s : State) : Nat := s.i.toNat

/-- The advance of FX55 and FX65 (42_index_memory.md R124, R125): `I <- I + X + 1` if Q_LOADSTORE. -/
def State.advanceI (s : State) (x : Reg) : State :=
  if s.quirks.loadStore then s.setI (BitVec.ofNat 16 (s.base + x.toNat + 1)) else s

/-- `key(k)`. -/
def State.key (s : State) (k : Nat) : Bool := s.keys.getLsbD k

/-- `pressed(v)` (44_keys_timers.md R151): an index above 15 names a key that is not pressed. -/
def State.pressed (s : State) (b : Byte) : Bool := b.toNat ≤ 15 && s.key b.toNat

/-- The least pressed key, if any is down. -/
def lowestKey (keys : BitVec 16) : Option Nat := (List.range 16).find? (fun k => keys.getLsbD k)

/-- `KeySelect` (44_keys_timers.md R147): nothing when no key is down; else the lowest pressed key, or
under `anyPressed` the free choice where it is pressed. -/
def selectKey (c : Config) (keys : BitVec 16) : Option Reg :=
  match lowestKey keys with
  | none     => none
  | some low =>
    match c.keySelect with
    | .lowest     => some (BitVec.ofNat 4 low)
    | .anyPressed =>
      if keys.getLsbD (Config.freeKey keys).toNat then some (Config.freeKey keys)
      else some (BitVec.ofNat 4 low)

/-- The address of glyph `d` (42_index_memory.md R122, 20_memory.md R43). -/
def fontAddr (c : Config) (d : Byte) : Word := BitVec.ofNat 16 (c.fontBase + 5 * d.toNat)

/-- Hundreds, tens and units of a byte, each a binary value 0 to 9 (42_index_memory.md R123). -/
def bcdDigits (b : Byte) : List Byte :=
  [BitVec.ofNat 8 (b.toNat / 100), BitVec.ofNat 8 (b.toNat / 10 % 10), BitVec.ofNat 8 (b.toNat % 10)]

end Sys2Proof.Machine
end

