-- ==== Sys2Proof/Machine/Alu.lean ====
section
/-! DEFINITION. Register, arithmetic, logic, shift and random instructions (41_alu.md R100 to R113). -/

namespace Sys2Proof.Machine

/-- `LD Vx, NN` (R100). -/
def execLdImm (x : Reg) (nn : Byte) (s : State) : Result := .next (s.setV x nn)

/-- `ADD Vx, NN` (R101): no flag. -/
def execAddImm (x : Reg) (nn : Byte) (s : State) : Result := .next (s.setV x (addResult (s.getV x) nn))

/-- `LD Vx, Vy` (R102). -/
def execLdReg (x y : Reg) (s : State) : Result := .next (s.setV x (s.getV y))

/-- `OR Vx, Vy` (R103): VF unchanged. -/
def execOrReg (x y : Reg) (s : State) : Result := .next (s.setV x (s.getV x ||| s.getV y))

/-- `AND Vx, Vy` (R104): VF unchanged. -/
def execAndReg (x y : Reg) (s : State) : Result := .next (s.setV x (s.getV x &&& s.getV y))

/-- `XOR Vx, Vy` (R105): VF unchanged. -/
def execXorReg (x y : Reg) (s : State) : Result := .next (s.setV x (s.getV x ^^^ s.getV y))

/-- `ADD Vx, Vy` (R106): VF = carry. -/
def execAddReg (x y : Reg) (s : State) : Result :=
  .next (s.setVFlag x (addResult (s.getV x) (s.getV y)) (addFlag (s.getV x) (s.getV y)))

/-- `SUB Vx, Vy` (R107): VF = no borrow. -/
def execSubReg (x y : Reg) (s : State) : Result :=
  .next (s.setVFlag x (subResult (s.getV x) (s.getV y)) (subFlag (s.getV x) (s.getV y)))

/-- `SHR Vx, Vy` (R108). -/
def execShrReg (x y : Reg) (s : State) : Result :=
  .next (s.setVFlag x (shrResult (s.shiftSource x y)) (shrFlag (s.shiftSource x y)))

/-- `SUBN Vx, Vy` (R109): `Vy - Vx` into `Vx`. -/
def execSubnReg (x y : Reg) (s : State) : Result :=
  .next (s.setVFlag x (subResult (s.getV y) (s.getV x)) (subFlag (s.getV y) (s.getV x)))

/-- `SHL Vx, Vy` (R110). -/
def execShlReg (x y : Reg) (s : State) : Result :=
  .next (s.setVFlag x (shlResult (s.shiftSource x y)) (shlFlag (s.shiftSource x y)))

/-- `RND Vx, NN` (R111): one random byte is consumed. -/
def execRnd (x : Reg) (nn : Byte) (s : State) : Result :=
  .next (s.consumeRnd.setV x (s.rndByte &&& nn))

end Sys2Proof.Machine
end

