-- ==== Sys2Proof/Machine/Display.lean ====
section
/-! DEFINITION. Display instructions (43_display.md R135 to R140). -/

namespace Sys2Proof.Machine

/-- `CLS` (R135): every cell 0, and the pulse `Cleared` (R140). -/
def execCls (s : State) : Result :=
  .next ({ s with fb := Framebuffer.blank s.cfg.fbW s.cfg.fbH }.notify .cleared)

/-- The sprite of DXYN on the current framebuffer (R136): the start position is reduced first (R137). -/
def State.drawn (s : State) (x y : Reg) (n : Nibble) : Drawing :=
  drawSprite s.cfg.fbW s.cfg.fbH ((s.getV x).toNat % s.cfg.fbW) ((s.getV y).toNat % s.cfg.fbH)
    (s.bytesAt s.base n.toNat) s.fb

/-- `DRW Vx, Vy, N` (R136): the grid, VF = collision, and the pulse `Drew` (R140). -/
def execDrw (x y : Reg) (n : Nibble) (s : State) : Result :=
  accessing s.base n.toNat
    (({ s with fb := (s.drawn x y n).1 }.setV VF (flagByte (s.drawn x y n).2)).notify .drew)

end Sys2Proof.Machine
end

