-- ==== Sys2Proof/Machine/Flow.lean ====
section
/-! DEFINITION. Control flow, SYS and the unrecognised word (40_flow.md R80 to R91). On entry `PC = a + 2`. -/

namespace Sys2Proof.Machine

/-- `SYS NNN` (R80): nothing. -/
def execSys (_nnn : Addr12) (s : State) : Result := .next s

/-- `RET` (R81): `PC <- pop()`, or the fatal condition StackUnderflow. -/
def execRet (s : State) : Result :=
  match s.pop with
  | some (w, t) => .next (t.setPc w)
  | none        => .next (s.takeFatal .stackUnderflow)

/-- `JP NNN` (R82). -/
def execJp (nnn : Addr12) (s : State) : Result := .next (s.setPc (zext16 nnn))

/-- `CALL NNN` (R83): `push(PC)`, `PC <- NNN`, or the fatal condition StackOverflow. -/
def execCall (nnn : Addr12) (s : State) : Result :=
  match s.push s.pc with
  | some t => .next (t.setPc (zext16 nnn))
  | none   => .next (s.takeFatal .stackOverflow)

/-- `SE Vx, NN` (R84). -/
def execSeImm (x : Reg) (nn : Byte) (s : State) : Result := .next (s.skipIf (s.getV x == nn))

/-- `SNE Vx, NN` (R85). -/
def execSneImm (x : Reg) (nn : Byte) (s : State) : Result := .next (s.skipIf (s.getV x != nn))

/-- `SE Vx, Vy` (R86): the low nibble is not examined. -/
def execSeReg (x y : Reg) (_n : Nibble) (s : State) : Result := .next (s.skipIf (s.getV x == s.getV y))

/-- `SNE Vx, Vy` (R87): the low nibble is not examined. -/
def execSneReg (x y : Reg) (_n : Nibble) (s : State) : Result := .next (s.skipIf (s.getV x != s.getV y))

/-- `JP V0, NNN` (R88): the 16-bit sum, not reduced to 12 bits. -/
def execJpV0 (nnn : Addr12) (s : State) : Result :=
  .next (s.setPc (zext16 nnn + (s.jumpOffset nnn).setWidth 16))

/-- The unrecognised word (R89): nothing. -/
def execUnrecognised (_w : Word) (s : State) : Result := .next s

end Sys2Proof.Machine
end

