-- ==== Sys2Proof/Machine/IndexMemory.lean ====
section
/-! DEFINITION. Index-register and memory instructions (42_index_memory.md R120 to R125). -/

namespace Sys2Proof.Machine

/-- `LD I, NNN` (R120). -/
def execLdI (nnn : Addr12) (s : State) : Result := .next (s.setI (zext16 nnn))

/-- `ADD I, Vx` (R121): I first, VF last. -/
def execAddI (x : Reg) (s : State) : Result :=
  .next ((s.setI (addIResult s.cfg.iAddTrunc12 s.i (s.getV x))).setV VF (addIFlag s.i (s.getV x)))

/-- `LD F, Vx` (R122): nothing when `V[x] > 0x0F`. -/
def execLdF (x : Reg) (s : State) : Result :=
  .next (if (s.getV x).toNat ≤ 0x0F then s.setI (fontAddr s.cfg (s.getV x)) else s)

/-- `LD B, Vx` (R123). -/
def execLdB (x : Reg) (s : State) : Result :=
  accessing s.base 3 (s.putBytes s.base (bcdDigits (s.getV x)))

/-- `LD [I], Vx` (R124). -/
def execStore (x : Reg) (s : State) : Result :=
  accessing s.base (x.toNat + 1) ((s.putBytes s.base (s.regsUpTo x)).advanceI x)

/-- `LD Vx, [I]` (R125). -/
def execLoad (x : Reg) (s : State) : Result :=
  accessing s.base (x.toNat + 1) ((s.setRegs (s.bytesAt s.base (x.toNat + 1))).advanceI x)

end Sys2Proof.Machine
end

