-- ==== Sys2Proof/Machine/KeysTimers.lean ====
section
/-! DEFINITION. Keypad and timer instructions (44_keys_timers.md R145 to R151). -/

namespace Sys2Proof.Machine

/-- `SKP Vx` (R145). -/
def execSkp (x : Reg) (s : State) : Result := .next (s.skipIf (s.pressed (s.getV x)))

/-- `SKNP Vx` (R146). -/
def execSknp (x : Reg) (s : State) : Result := .next (s.skipIf (!(s.pressed (s.getV x))))

/-- `LD Vx, K` (R147): the selected pressed key, or a rewind so that the instruction repeats. -/
def execLdVxK (x : Reg) (s : State) : Result :=
  match selectKey s.cfg s.keys with
  | some k => .next (s.setV x (k.setWidth 8))
  | none   => .next s.rewindPc

/-- `LD Vx, DT` (R148). -/
def execLdVxDT (x : Reg) (s : State) : Result := .next (s.setV x s.dt)

/-- `LD DT, Vx` (R149). -/
def execLdDTVx (x : Reg) (s : State) : Result := .next { s with dt := s.getV x }

/-- `LD ST, Vx` (R150). -/
def execLdSTVx (x : Reg) (s : State) : Result := .next { s with st := s.getV x }

end Sys2Proof.Machine
end

