-- ==== Sys2Proof/Machine/Events.lean ====
section
/-! DEFINITION. The events that change the machine (00_scope.md R5): the CPU step (30_encoding.md R70),
the timer tick, the frame presentation and the scheduler pass (60_exceptions.md R168 to R173), the host's
actions (R175 to R182) and the reset sequence (70_reset_and_hazards.md R190). -/

namespace Sys2Proof.Machine

/-- Events may happen: not fatal (60_exceptions.md R163) and not shut down (R181). -/
def State.live (s : State) : Bool := s.status == .running && !s.quit

/-- The opcode at PC, or nothing when `PC > 0xFFE` (30_encoding.md R70, 20_memory.md R48). -/
def State.fetch (s : State) : Option Word := s.memRead2 s.pc.toNat

/-- One CPU step (30_encoding.md R70): fetch, advance PC by 2, decode, execute. -/
def cpuStep (s : State) : Result :=
  match s.fetch with
  | none    => .refused (.outOfRange (s.pc.toNat + 1))
  | some op => exec (decodeWord op) s.advancePc

/-- One timer tick (60_exceptions.md R168): both timers, each clamped at zero. -/
def State.timerTick (s : State) : State :=
  { s with dt := if s.dt = 0 then 0 else s.dt - 1, st := if s.st = 0 then 0 else s.st - 1 }

/-- One frame presentation (60_exceptions.md R170): the whole framebuffer is handed over. -/
def State.present (s : State) : State := s.notify (.presented s.fb)

/-- `T[d] = 1 / HZ[d]` (60_exceptions.md R171). -/
def period (hz : Rat) : Rat := 1 / hz

/-- The whole periods elapsed since `last` at the reading `now` (60_exceptions.md R172). -/
def ticksOwed (hz last now : Rat) : Nat := ((now - last) / period hz).floor.toNat

/-- CPU steps owed at `now`: none while paused (60_exceptions.md R172, R182). -/
def State.cpuOwed (s : State) (now : Rat) : Nat :=
  if s.paused then 0 else ticksOwed s.cfg.cpuHz s.last.cpu now

/-- Timer ticks owed at `now`. -/
def State.timerOwed (s : State) (now : Rat) : Nat := ticksOwed Config.timerHz s.last.timer now

/-- Frame presentations owed at `now`. -/
def State.frameOwed (s : State) (now : Rat) : Nat := ticksOwed s.cfg.frameHz s.last.frame now

/-- A scheduler pass (60_exceptions.md R172): the owed events come next, in the reference order of R173,
and `LAST[d]` moves by the whole periods issued, the remainder kept; while paused `LAST[CPU]` moves to
`now`. -/
def State.schedulerPass (s : State) (now : Rat) : State :=
  { s with
    last := { cpu   := if s.paused then now else s.last.cpu + s.cpuOwed now * period s.cfg.cpuHz
              timer := s.last.timer + s.timerOwed now * period Config.timerHz
              frame := s.last.frame + s.frameOwed now * period s.cfg.frameHz }
    agenda := List.replicate (s.cpuOwed now) .cpu ++ List.replicate (s.timerOwed now) .tick ++
              List.replicate (s.frameOwed now) .present ++ s.agenda }

/-- The reset sequence (70_reset_and_hazards.md R190, steps 1 to 8) for an image that fits: memory as at
reset with the program at 0x200, the registers at their reset values, the quirks sampled from the straps.
The inputs, the parameters and the model's own fields stay, but for `quit`. -/
def State.resetSequence (s : State) (rom : List Byte) (now : Rat) : State :=
  { s with
    mem := Memory.load s.cfg [] progBase rom
    v := Vector.replicate 16 0, i := 0, sp := 0, stack := List.replicate s.cfg.stackCap.size 0
    dt := 0, st := 0, fb := Framebuffer.blank s.cfg.fbW s.cfg.fbH
    quirks := s.straps, pc := 0x200, status := .running, paused := false
    last := { cpu := now, timer := now, frame := now }
    quit := false }

/-- A host action (60_exceptions.md R175 to R182). Pause and step act only on a live machine (log 6). -/
def hostAction (a : HostAction) (s : State) : Result :=
  match a with
  | .setKeys levels   => .next { s with keys := levels }
  | .setStraps levels => .next { s with straps := levels }
  | .supplyRnd bytes  => .next { s with rndQueue := s.rndQueue ++ bytes }
  | .setPause level   => .next (if s.live then { s with paused := level } else s)
  | .stepPulse        => if s.live && s.paused then cpuStep s else .next s
  | .quit             => .next { s with quit := true }
  | .reset rom now    =>
    if rom.length ≤ maxImage then .next (s.resetSequence rom now)
    else .refused (.imageTooLong rom.length)

/-- A queued event. One that may not be issued (machine fatal, shut down, or CPU paused) is dropped and
changes nothing (60_exceptions.md R163, R172, R181, R182). -/
def fire (e : Event) (s : State) : Result :=
  match e with
  | .cpu      => if s.live && !s.paused then cpuStep s else .next s
  | .tick     => .next (if s.live then s.timerTick else s)
  | .present  => .next (if s.live then s.present else s)
  | .pass now => .next (if s.live then s.schedulerPass now else s)
  | .host a   => hostAction a s

/-- With nothing queued a CPU step is next (log 1). A machine in a fatal state answers its fault (R163);
one that is paused or shut down does nothing. -/
def idleEvent (s : State) : Result :=
  match s.status with
  | .fatal cause a => .fault (cause.fault a)
  | .running       => fire .cpu s

/-- The next event of the machine: the head of the agenda, or a CPU step. -/
def nextEvent (s : State) : Result :=
  match s.agenda with
  | []        => idleEvent s
  | e :: rest => fire e { s with agenda := rest }

/-- The state made ready to run the opcode `op` next: `op` stored at PC (moved to 0x200 when PC is above
0xFFE), and what could keep the CPU step from being next set out of the way. -/
def State.withOpcode (s : State) (op : Word) : State :=
  let t := { s with
    pc := if s.pc.toNat ≤ 0xFFE then s.pc else 0x200
    status := .running, paused := false, quit := false
    agenda := match s.agenda with
      | []   => []
      | evts => .cpu :: evts }
  t.putBytes t.pc.toNat (wordBytes op)

end Sys2Proof.Machine
end

