-- ==== Sys2Proof/Safety.lean ====
section
/-! DEFINITION. What a legal state is (the invariant every step keeps) and what a safe step is. -/

namespace Sys2Proof.Machine

/-- The shape of a legal state: legal parameters (00_scope.md R4), canonical memory (20_memory.md R40), a
full-size stack with a count in range (10_state.md R16), a full-size framebuffer (R20). -/
abbrev State.Legal (s : State) : Prop :=
  s.cfg.Legal ∧ Memory.wf s.cfg s.mem ∧ s.stack.length = s.cfg.stackCap.size ∧
  s.sp ≤ s.cfg.stackCap.size ∧ Framebuffer.shaped s.cfg.fbW s.cfg.fbH s.fb

/-- With `I_ADD_TRUNC12`, I is at most 0x1000 (10_state.md R15). -/
abbrev State.IndexBound (s : State) : Prop := s.cfg.iAddTrunc12 = true → s.i.toNat ≤ 0x1000

/-- The next event is a CPU step and nothing keeps it from being issued. -/
abbrev State.CpuNext (s : State) : Prop := s.agenda = [] ∧ s.live = true ∧ s.paused = false

/-- A step is safe when it does not stand in a fatal condition (00_scope.md R8, 60_exceptions.md R163). -/
abbrev SafeStep (s : State) : Prop := ∀ f, step s ≠ .fault f

/-- The end of a run by convention (70_reset_and_hazards.md R198): running, at a jump to itself. -/
abbrev State.AtEnd (s : State) : Prop :=
  s.status = .running ∧ s.memRead2 s.pc.toNat = some (0x1000#16 + s.pc)

end Sys2Proof.Machine
end

