-- ==== Sys2Proof/Certificates/Slice0/Obligations.lean ====
section
/-! DEFINITION. The statements for the provers. Each docstring names the rule of spec/ it formalises and
every decision of the spec (D<n> of 92_eei_decisions.md) or log entry it rests on. -/

namespace Sys2Proof.Spec

open Sys2Proof.Machine

/-- Every byte of memory reads as before. -/
abbrev SameBytes (s t : State) : Prop := ∀ a, t.byteAt a = s.byteAt a

/-- FRAME of a register-only instruction: nothing but the general registers differs. -/
abbrev OnlyRegisters (s t : State) : Prop := t = { s with v := t.v } ∧ SameBytes s t

/-- FRAME of a jump or skip: nothing but PC differs. -/
abbrev OnlyPc (s t : State) : Prop := t = { s with pc := t.pc } ∧ SameBytes s t

/-- The instruction completes, adding 2 to PC modulo 2^16 exactly when the condition holds, and changes
nothing else. -/
abbrev SkipsIf (i : Instr) (s : State) (cond : Prop) [Decidable cond] : Prop :=
  ∃ t, exec i s = .next t ∧ t.pc.toNat = (s.pc.toNat + if cond then 2 else 0) % 2 ^ 16 ∧ OnlyPc s t

/-- The instruction completes, writing `r` to `V[x]` and changing nothing else. -/
abbrev WritesRegister (i : Instr) (s : State) (x : Reg) (r : Byte → Prop) : Prop :=
  ∃ t, exec i s = .next t ∧ r (t.getV x) ∧ (∀ k, k ≠ x → t.getV k = s.getV k) ∧ OnlyRegisters s t

/-- The instruction completes with result `r` in `V[x]`, unless x is VF, and flag `f` in VF, and changes
nothing else: the flag is written last (10_state.md R12, decision D11). -/
abbrev WritesResultThenFlag (i : Instr) (s : State) (x : Reg) (r f : Nat) : Prop :=
  ∃ t, exec i s = .next t ∧ (x ≠ VF → (t.getV x).toNat = r) ∧ (t.getV VF).toNat = f ∧
    (∀ k, k ≠ x → k ≠ VF → t.getV k = s.getV k) ∧ OnlyRegisters s t

/-- `n` executions of CALL one after the other. -/
def callTimes (nnn : Addr12) : Nat → State → Result
  | 0, s => .next s
  | n + 1, s =>
    match exec (.call nnn) s with
    | .next t    => callTimes nnn n t
    | .fault f   => .fault f
    | .refused r => .refused r

/-- A 1 bit of the sprite at `I` falls on the cell in row `cy`, column `cx` (43_display.md R136 to R138):
position and cell are both reduced modulo the framebuffer's size, bit 7 is the leftmost column. -/
abbrev SpriteCovers (s : State) (x y : Reg) (n : Nibble) (cy cx : Nat) : Prop :=
  ∃ row < n.toNat, ∃ col < 8,
    (s.byteAt (s.i.toNat + row)).getLsbD (7 - col) = true ∧
    ((s.getV x).toNat % s.cfg.fbW + col) % s.cfg.fbW = cx ∧
    ((s.getV y).toNat % s.cfg.fbH + row) % s.cfg.fbH = cy

/-- The bytes DXYN reads exist (20_memory.md R50). -/
abbrev SpriteInRange (s : State) (n : Nibble) : Prop := n = 0 ∨ s.i.toNat + n.toNat - 1 ≤ 0xFFF

/-- The next fetch in `t` after `n` bytes were stored from `I` on in `s`: each half of the opcode is the byte
stored at its address, or the byte that was there before where the store did not reach (20_memory.md R57). -/
abbrev FetchSeesStore (s t : State) (n : Nat) (stored : Nat → Nat) : Prop :=
  ∃ op, t.fetch = some op ∧
    (∀ k < n, (s.pc.toNat = s.i.toNat + k → op.toNat / 256 = stored k) ∧
      (s.pc.toNat + 1 = s.i.toNat + k → op.toNat % 256 = stored k)) ∧
    (s.pc.toNat < s.i.toNat ∨ s.i.toNat + n ≤ s.pc.toNat →
      op.toNat / 256 = (s.byteAt s.pc.toNat).toNat) ∧
    (s.pc.toNat + 1 < s.i.toNat ∨ s.i.toNat + n ≤ s.pc.toNat + 1 →
      op.toNat % 256 = (s.byteAt (s.pc.toNat + 1)).toNat)

/-- The seven instructions that write VF as a flag (10_state.md R11). -/
def isFlagWriter : Instr → Bool
  | .addReg _ _ | .subReg _ _ | .shrReg _ _ | .subnReg _ _ | .shlReg _ _ | .addI _ | .drw _ _ _ => true
  | _ => false

/-- The general register `k` is an ordinary destination of the instruction: its field `X`, or in the range
of FX65. -/
def isDestination : Instr → Reg → Bool
  | .ldImm x _, k | .addImm x _, k | .ldReg x _, k | .orReg x _, k | .andReg x _, k | .xorReg x _, k
  | .addReg x _, k | .subReg x _, k | .shrReg x _, k | .subnReg x _, k | .shlReg x _, k | .rnd x _, k
  | .ldVxDT x, k | .ldVxK x, k => k == x
  | .load x, k => k.toNat ≤ x.toNat
  | _, _ => false

/-- The instructions that write memory (20_memory.md R41). -/
def writesMemory : Instr → Bool
  | .ldB _ | .store _ => true
  | _ => false
/-- The instructions that write the framebuffer and raise a pulse (10_state.md R20, 43_display.md R140). -/
def writesScreen : Instr → Bool
  | .cls | .drw _ _ _ => true
  | _ => false
/-- The instructions that write I (10_state.md R15). -/
def writesIndex : Instr → Bool
  | .ldI _ | .addI _ | .ldF _ | .store _ | .load _ => true
  | _ => false
/-- The instructions that use the call stack (10_state.md R16). -/
def usesStack : Instr → Bool
  | .call _ | .ret => true
  | _ => false
/-- The instructions that move PC after fetch has advanced it: jumps, CALL, RET, skips and FX0A (10_state.md
R14). -/
def movesPc : Instr → Bool
  | .jp _ | .jpV0 _ | .call _ | .ret | .seImm _ _ | .sneImm _ _ | .seReg _ _ _ | .sneReg _ _ _
  | .skp _ | .sknp _ | .ldVxK _ => true
  | _ => false
/-- FX15, the only instruction that writes DT (10_state.md R18). -/
def writesDT : Instr → Bool
  | .ldDTVx _ => true
  | _ => false
/-- FX18, the only instruction that writes ST (10_state.md R19). -/
def writesST : Instr → Bool
  | .ldSTVx _ => true
  | _ => false
/-- CXNN, the only instruction that consumes a random byte (41_alu.md R111). -/
def usesRandom : Instr → Bool
  | .rnd _ _ => true
  | _ => false
/-- The instructions that read the key inputs (10_state.md R31). -/
def readsKeys : Instr → Bool
  | .skp _ | .sknp _ | .ldVxK _ => true
  | _ => false

end Sys2Proof.Spec

open Sys2Proof Sys2Proof.Machine Sys2Proof.Spec

/-! ## Encoding and fetch -/

/-- Decode and encode agree (30_encoding.md R61, R65, R66; 20_memory.md R46): the bytes of every well-formed
instruction, with any bytes after them, decode to that instruction and leave those bytes. 30 of the 35
numbers are the spec's general knowledge (G1, log 10). -/
def Obligations.DecodeOfEncodeIsIdentity : Prop :=
  ∀ (i : Instr) (rest : List Byte), i.wf = true →
    decode (wordBytes (encode i) ++ rest) = .ok (i, rest)

/-- Decoding is total and drops no bit (30_encoding.md R66, R68, R71; 20_memory.md R46): any two bytes, with
any bytes after them, decode to a well-formed instruction whose encoding is those two bytes, and leave the
rest. -/
def Obligations.EncodeOfDecodeIsIdentity : Prop :=
  ∀ (hi lo : Byte) (rest : List Byte),
    ∃ i, decode (hi :: lo :: rest) = .ok (i, rest) ∧ i.wf = true ∧ wordBytes (encode i) = [hi, lo]

/-- The decoder picks, for every word, the row of the opcode map that the mask and match columns pick, the
two FIXED rows first, and the catch-all when none matches (30_encoding.md R65, R66; G1, D12, D13, log 10). -/
def Obligations.DecodeSelectsOpcodeMapRow : Prop :=
  ∀ op : Word, (decodeWord op).row = rowSelected op

/-- The unrecognised words are exactly those 30_encoding.md R67 lists, and SYS is every word of family 0 but
00E0 and 00EE (40_flow.md R80). That families 5 and 9 have none is D13 (log 17), that the rest of family 0 is
SYS is D12 (log 16), the numbers and selectors are the spec's general knowledge (G1, G2, log 10). -/
def Obligations.UnrecognisedSpaceIsAsListed : Prop :=
  ∀ op : Word,
    (decodeWord op = .unrecognised op ↔
      (op.toNat / 4096 = 0x8 ∧ op.toNat % 16 ∈ [0x8, 0x9, 0xA, 0xB, 0xC, 0xD, 0xF]) ∨
      (op.toNat / 4096 = 0xE ∧ op.toNat % 256 ∉ [0x9E, 0xA1]) ∨
      (op.toNat / 4096 = 0xF ∧
        op.toNat % 256 ∉ [0x07, 0x0A, 0x15, 0x18, 0x1E, 0x29, 0x33, 0x55, 0x65])) ∧
    ((∃ nnn, decodeWord op = .sys nnn) ↔ op.toNat / 4096 = 0 ∧ op ≠ 0x00E0 ∧ op ≠ 0x00EE)

/-- Words written out from the encodings of 30_encoding.md R62 and R65, at least one of each of the sixteen
families, with an unrecognised one. Most of these numbers are the spec's general knowledge (G1, G2, log 10):
the source gives 00E0, 1NNN, 6XNN, 7XNN and FX55. The low nibble 7 of 5XYn is D13 (log 17). -/
def Obligations.WrittenOutWordsDecode : Prop :=
  decodeWord 0b0000000011100000 = .cls ∧ decodeWord 0b0000000011101110 = .ret ∧
  decodeWord 0b0001001000101000 = .jp 0x228 ∧ decodeWord 0b0010101010111100 = .call 0xABC ∧
  decodeWord 0b0011101001000010 = .seImm 0xA 0x42 ∧ decodeWord 0b0100101001000010 = .sneImm 0xA 0x42 ∧
  decodeWord 0b0101000100100111 = .seReg 0x1 0x2 0x7 ∧ decodeWord 0b0110101000000101 = .ldImm 0xA 0x05 ∧
  decodeWord 0b0111101000000011 = .addImm 0xA 0x03 ∧ decodeWord 0b1000000100100110 = .shrReg 0x1 0x2 ∧
  decodeWord 0b1001000100100000 = .sneReg 0x1 0x2 0x0 ∧ decodeWord 0b1010001011110000 = .ldI 0x2F0 ∧
  decodeWord 0b1011001000010000 = .jpV0 0x210 ∧ decodeWord 0b1100001100001111 = .rnd 0x3 0x0F ∧
  decodeWord 0b1101000000010101 = .drw 0x0 0x1 0x5 ∧ decodeWord 0b1110010110011110 = .skp 0x5 ∧
  decodeWord 0b1111001001010101 = .store 0x2 ∧ decodeWord 0b1000101010111001 = .unrecognised 0x8AB9

/-- Byte order (20_memory.md R46): fetch composes the two bytes at PC and PC+1 with the byte at the lower
address high; a byte stored at `a` is the high byte of a fetch at `a` and the low byte of one at `a-1`. -/
def Obligations.FetchIsBigEndian : Prop :=
  ∀ s : State,
    (s.pc.toNat ≤ 0xFFE → ∃ op, s.fetch = some op ∧
      op.toNat = 256 * (s.byteAt s.pc.toNat).toNat + (s.byteAt (s.pc.toNat + 1)).toNat) ∧
    (∀ a b, a ≤ 0xFFE → ∃ op, (s.putByte a b).memRead2 a = some op ∧ op.toNat / 256 = b.toNat) ∧
    (∀ a b, a ≤ 0xFFE → ∃ op, (s.putByte (a + 1) b).memRead2 a = some op ∧ op.toNat % 256 = b.toNat)

/-- A STEP RUNS THE DECODED INSTRUCTION (30_encoding.md R70): when the two bytes at PC decode to `i` and the
next event is a CPU step that nothing gates, the step is exec of `i` with PC advanced by 2, and with the
event taken off the agenda if it was queued there (log 1). -/
def Obligations.StepRunsDecodedInstruction : Prop :=
  ∀ (s : State) (i : Instr), s.pc.toNat ≤ 0xFFE →
    decode [s.byteAt s.pc.toNat, s.byteAt (s.pc.toNat + 1)] = .ok (i, []) →
    s.status = .running → s.quit = false → s.paused = false →
    (s.agenda = [] → step s = exec i { s with pc := s.pc + 2 }) ∧
    (∀ rest, s.agenda = .cpu :: rest → step s = exec i { s with pc := s.pc + 2, agenda := rest })

/-- The state with a table word placed runs exactly that word's instruction in its next step, from any
state (the interface of this model; 30_encoding.md R70). -/
def Obligations.PlacedWordRunsNext : Prop :=
  ∀ (s : State) (w : Nat), w < 2 ^ 16 →
    decodeTableWord 16 w = some (decodeWord (BitVec.ofNat 16 w)) ∧
    step (s.withFetchWord 16 w) =
      exec (decodeWord (BitVec.ofNat 16 w))
        { s.withFetchWord 16 w with
          pc := (s.withFetchWord 16 w).pc + 2, agenda := (s.withFetchWord 16 w).agenda.tail }

/-! ## Control flow -/

/-- SYS and the unrecognised word do nothing (40_flow.md R80, R89; D12): each completes with the state as it
was, and a step at such a word only advances PC. Which words these are rests on D12 and D13 (log 16, log 17)
and on the spec's general knowledge of the numbers (G1, log 10). -/
def Obligations.NoOpWordsOnlyAdvancePc : Prop :=
  ∀ s : State,
    (∀ nnn, exec (.sys nnn) s = .next s) ∧ (∀ w, exec (.unrecognised w) s = .next s) ∧
    (∀ op, s.CpuNext → s.fetch = some op →
      (op.toNat < 0x1000 ∧ op ≠ 0x00E0 ∧ op ≠ 0x00EE) ∨ isUnrecognised op = true →
      ∃ t, step s = .next t ∧ t.pc.toNat = (s.pc.toNat + 2) % 2 ^ 16 ∧ OnlyPc s t)

/-- JP NNN (40_flow.md R82): word 1NNN, PC becomes NNN zero-extended, nothing else changes, it always
completes. -/
def Obligations.JumpSetsPcToTarget : Prop :=
  ∀ (s : State) (nnn : Addr12),
    decodeWord (BitVec.ofNat 16 (0x1000 + nnn.toNat)) = .jp nnn ∧
    ∃ t, exec (.jp nnn) s = .next t ∧ t.pc.toNat = nnn.toNat ∧ OnlyPc s t

/-- JP V0 (40_flow.md R88; D10: the sum is not reduced to 12 bits): PC becomes NNN plus V0, or plus Vx with
X the high nibble of NNN under Q_JUMP. -/
def Obligations.JumpOffsetAddsSelectedRegister : Prop :=
  ∀ (s : State) (nnn : Addr12), ∃ t, exec (.jpV0 nnn) s = .next t ∧
    (s.quirks.jump = false → t.pc.toNat = nnn.toNat + (s.getV 0).toNat) ∧
    (s.quirks.jump = true →
      t.pc.toNat = nnn.toNat + (s.getV (BitVec.ofNat 4 (nnn.toNat / 256))).toNat) ∧
    OnlyPc s t

/-- The skip law (40_flow.md R90; the modulus 2^16 is D35, a key index above 15 is D15, that every low
nibble n of 5XYn and 9XYn does the same is D13, log 17) for the six skips: PC gains exactly 2, once, when the
condition holds and nothing otherwise; whatever word is skipped, nothing else is read or changed. -/
def Obligations.SkipLaw : Prop :=
  ∀ (s : State) (x y : Reg) (nn : Byte) (n : Nibble),
    SkipsIf (.seImm x nn) s (s.getV x = nn) ∧ SkipsIf (.sneImm x nn) s (s.getV x ≠ nn) ∧
    SkipsIf (.seReg x y n) s (s.getV x = s.getV y) ∧ SkipsIf (.sneReg x y n) s (s.getV x ≠ s.getV y) ∧
    SkipsIf (.skp x) s (s.pressed (s.getV x) = true) ∧
    SkipsIf (.sknp x) s (s.pressed (s.getV x) = false)

/-- CALL with room on the stack (40_flow.md R83, 10_state.md R17): PC, which is the address after the call,
goes to STACK[SP], SP counts it, PC becomes NNN; every other entry and everything else is unchanged. -/
def Obligations.CallPushesReturnAddress : Prop :=
  ∀ (s : State) (nnn : Addr12), s.stack.length = s.cfg.stackCap.size → s.sp < s.cfg.stackCap.size →
    ∃ t, exec (.call nnn) s = .next t ∧ t.pc.toNat = nnn.toNat ∧ t.sp = s.sp + 1 ∧
      t.stackEntry s.sp = s.pc ∧ (∀ k, k ≠ s.sp → t.stackEntry k = s.stackEntry k) ∧
      t.stack.length = s.stack.length ∧
      t = { s with pc := t.pc, sp := t.sp, stack := t.stack } ∧ SameBytes s t

/-- CALL with a full stack (60_exceptions.md R161; D18): STATUS becomes Fatal(StackOverflow, a) with `a` the
address of the CALL, two below PC; nothing else changes, and the target is not loaded. The outputs show it
(R160, R180): fatal is 1, the cause code 1, the address `a`. -/
def Obligations.CallOnFullStackIsFatal : Prop :=
  ∀ (s : State) (nnn : Addr12), s.sp = s.cfg.stackCap.size →
    ∃ t a, exec (.call nnn) s = .next t ∧ t.status = .fatal .stackOverflow a ∧ a + 2 = s.pc ∧
      t.fatalOut = true ∧ t.fatalInfo = (1, a) ∧ t = { s with status := t.status } ∧ SameBytes s t

/-- RET with entries on the stack (40_flow.md R81, 10_state.md R17): PC becomes the top entry, SP loses one,
the entries stay in place, nothing else changes. -/
def Obligations.ReturnPopsTopEntry : Prop :=
  ∀ s : State, s.sp ≠ 0 →
    ∃ t, exec .ret s = .next t ∧ t.pc = s.stackEntry (s.sp - 1) ∧ t.sp + 1 = s.sp ∧
      t = { s with pc := t.pc, sp := t.sp } ∧ SameBytes s t

/-- RET with an empty stack (60_exceptions.md R162; D18): STATUS becomes Fatal(StackUnderflow, a) with `a` the
address of the RET; nothing else changes. The outputs show it (R160, R180): fatal is 1, the cause code 2, the
address `a`. -/
def Obligations.ReturnOnEmptyStackIsFatal : Prop :=
  ∀ s : State, s.sp = 0 →
    ∃ t a, exec .ret s = .next t ∧ t.status = .fatal .stackUnderflow a ∧ a + 2 = s.pc ∧
      t.fatalOut = true ∧ t.fatalInfo = (2, a) ∧ t = { s with status := t.status } ∧ SameBytes s t

/-- Push then pop returns the exact pushed address (10_state.md R16, R17): after a CALL and any run that brings
SP back to where the CALL left it with the entries below SP as the CALL left them, whatever it left at SP and
above (a subroutine that itself calls and returns), RET goes to the address after the CALL, and the stack is
as before the CALL. -/
def Obligations.ReturnUndoesCall : Prop :=
  ∀ (s : State) (nnn : Addr12), s.stack.length = s.cfg.stackCap.size → s.sp < s.cfg.stackCap.size →
    ∃ t, exec (.call nnn) s = .next t ∧
      ∀ t', t'.sp = t.sp → (∀ k < t.sp, t'.stackEntry k = t.stackEntry k) →
        ∃ u, exec .ret t' = .next u ∧ u.pc = s.pc ∧ u.sp = s.sp ∧
          ∀ k < s.sp, u.stackEntry k = s.stackEntry k

/-- Exactly as many nested calls succeed as the stack has free entries, and the next one is fatal
(10_state.md R16, R17; D18). -/
def Obligations.NestedCallsFillTheStackExactly : Prop :=
  ∀ (s : State) (nnn : Addr12), s.sp ≤ s.cfg.stackCap.size →
    (∀ n, s.sp + n ≤ s.cfg.stackCap.size →
      ∃ t, callTimes nnn n s = .next t ∧ t.sp = s.sp + n ∧ t.status = s.status) ∧
    (∃ t a, callTimes nnn (s.cfg.stackCap.size - s.sp + 1) s = .next t ∧
      t.status = .fatal .stackOverflow a ∧ t.sp = s.cfg.stackCap.size)

/-! ## Register and arithmetic instructions -/

/-- LD Vx, NN (41_alu.md R100): word 6XNN, V[X] becomes NN, nothing else changes (VF too is an ordinary
destination), it always completes. -/
def Obligations.LoadImmediateWritesRegister : Prop :=
  ∀ (s : State) (x : Reg) (nn : Byte),
    decodeWord (BitVec.ofNat 16 (0x6000 + 256 * x.toNat + nn.toNat)) = .ldImm x nn ∧
    WritesRegister (.ldImm x nn) s x (fun r => r = nn)

/-- ADD Vx, NN (41_alu.md R101): word 7XNN, V[X] becomes the sum modulo 256, no flag is written, nothing else
changes, it always completes. -/
def Obligations.AddImmediateWrapsWithoutFlag : Prop :=
  ∀ (s : State) (x : Reg) (nn : Byte),
    decodeWord (BitVec.ofNat 16 (0x7000 + 256 * x.toNat + nn.toNat)) = .addImm x nn ∧
    WritesRegister (.addImm x nn) s x (fun r => r.toNat = ((s.getV x).toNat + nn.toNat) % 256)

/-- LD, OR, AND, XOR of two registers (41_alu.md R102 to R105): V[X] gets the copy or the bitwise result, VF
and everything else is unchanged. -/
def Obligations.CopyAndLogicWriteOnlyVx : Prop :=
  ∀ (s : State) (x y : Reg),
    WritesRegister (.ldReg x y) s x (fun r => r = s.getV y) ∧
    WritesRegister (.orReg x y) s x
      (fun r => ∀ j < 8, r.getLsbD j = ((s.getV x).getLsbD j || (s.getV y).getLsbD j)) ∧
    WritesRegister (.andReg x y) s x
      (fun r => ∀ j < 8, r.getLsbD j = ((s.getV x).getLsbD j && (s.getV y).getLsbD j)) ∧
    WritesRegister (.xorReg x y) s x
      (fun r => ∀ j < 8, r.getLsbD j = ((s.getV x).getLsbD j ^^ (s.getV y).getLsbD j))

/-- ADD Vx, Vy (41_alu.md R106, R112, R113; D11): the sum modulo 256, VF = 1 iff it exceeds 255. -/
def Obligations.AddSetsSumThenCarry : Prop :=
  ∀ (s : State) (x y : Reg),
    WritesResultThenFlag (.addReg x y) s x (((s.getV x).toNat + (s.getV y).toNat) % 256)
      (if (s.getV x).toNat + (s.getV y).toNat > 255 then 1 else 0)

/-- SUB and SUBN (41_alu.md R107, R109, R112, R113; D11): the difference modulo 256 into V[X], VF = 1 iff there
is no borrow; V[Y] is unchanged by SUBN unless it is also X or VF. -/
def Obligations.SubtractsSetDifferenceThenNoBorrow : Prop :=
  ∀ (s : State) (x y : Reg),
    WritesResultThenFlag (.subReg x y) s x
      (if (s.getV x).toNat ≥ (s.getV y).toNat then (s.getV x).toNat - (s.getV y).toNat
       else (s.getV x).toNat + 256 - (s.getV y).toNat)
      (if (s.getV x).toNat ≥ (s.getV y).toNat then 1 else 0) ∧
    WritesResultThenFlag (.subnReg x y) s x
      (if (s.getV y).toNat ≥ (s.getV x).toNat then (s.getV y).toNat - (s.getV x).toNat
       else (s.getV y).toNat + 256 - (s.getV x).toNat)
      (if (s.getV y).toNat ≥ (s.getV x).toNat then 1 else 0)

/-- SHR and SHL (41_alu.md R108, R110, R113; D11): the source is V[Y] under Q_SHIFT, else V[X]; the result goes
to V[X], the bit shifted out to VF. -/
def Obligations.ShiftsSetResultThenShiftedOutBit : Prop :=
  ∀ (s : State) (x y : Reg) (src : Byte),
    (s.quirks.shift = true → src = s.getV y) → (s.quirks.shift = false → src = s.getV x) →
    WritesResultThenFlag (.shrReg x y) s x (src.toNat / 2) (src.toNat % 2) ∧
    WritesResultThenFlag (.shlReg x y) s x (src.toNat * 2 % 256) (src.toNat / 128)

/-- Exactly seven instructions write VF as a flag, always 0 or 1; every other instruction leaves VF as it was
unless VF is its ordinary destination (10_state.md R11). That VF ends as the flag where it is also the
destination is D11 (log 15), the flag of FX1E is D8 (log 13). -/
def Obligations.OnlyFlagWritersTouchVF : Prop :=
  ∀ (i : Instr) (s t : State), exec i s = .next t →
    (isFlagWriter i = true → t.getV VF = 0 ∨ t.getV VF = 1) ∧
    (isFlagWriter i = false → isDestination i VF = false → t.getV VF = s.getV VF)

/-- RND (41_alu.md R111, 10_state.md R32; D23, log 2): V[X] becomes the step's random byte AND NN, for
whatever byte that is, an injected one first; one byte is consumed; nothing else changes. -/
def Obligations.RandomIsMaskedAndConsumesOne : Prop :=
  ∀ (s : State) (x : Reg) (nn : Byte),
    ∃ t r, exec (.rnd x nn) s = .next t ∧ (∀ b q, s.rndQueue = b :: q → r = b) ∧
      (s.rndQueue = [] → r = Config.freeRnd s.draws) ∧
      (∀ j < 8, (t.getV x).getLsbD j = (r.getLsbD j && nn.getLsbD j)) ∧
      (∀ k, k ≠ x → t.getV k = s.getV k) ∧ t.draws = s.draws + 1 ∧ t.rndQueue = s.rndQueue.drop 1 ∧
      t = { s with v := t.v, draws := t.draws, rndQueue := t.rndQueue } ∧ SameBytes s t

/-! ## Index register and memory -/

/-- LD I (42_index_memory.md R120): I becomes NNN, at most 0xFFF; nothing else changes. -/
def Obligations.LoadIndexWritesI : Prop :=
  ∀ (s : State) (nnn : Addr12), ∃ t, exec (.ldI nnn) s = .next t ∧ t.i.toNat = nnn.toNat ∧
    t.i.toNat ≤ 0xFFF ∧ t = { s with i := t.i } ∧ SameBytes s t

/-- ADD I, Vx (42_index_memory.md R121; D8): I becomes the sum, reduced to 12 bits under I_ADD_TRUNC12 and to 16
bits otherwise; VF, written last, is 1 iff the sum exceeds 0xFFF; nothing else changes. -/
def Obligations.AddIndexSetsSumThenFlag : Prop :=
  ∀ (s : State) (x : Reg), ∃ t, exec (.addI x) s = .next t ∧
    t.i.toNat = (s.i.toNat + (s.getV x).toNat) % (if s.cfg.iAddTrunc12 then 2 ^ 12 else 2 ^ 16) ∧
    (t.getV VF).toNat = (if s.i.toNat + (s.getV x).toNat > 0xFFF then 1 else 0) ∧
    (∀ k, k ≠ VF → t.getV k = s.getV k) ∧ t = { s with i := t.i, v := t.v } ∧ SameBytes s t

/-- LD F (42_index_memory.md R122, 20_memory.md R42, R43; D4 for the default base): with V[X] at most 0x0F, I
becomes the glyph's address; with a larger V[X] nothing changes at all. -/
def Obligations.FontAddressOrNoOp : Prop :=
  ∀ (s : State) (x : Reg), s.cfg.Legal →
    ((s.getV x).toNat ≤ 0x0F → ∃ t, exec (.ldF x) s = .next t ∧
      t.i.toNat = s.cfg.fontBase + 5 * (s.getV x).toNat ∧ t = { s with i := t.i } ∧ SameBytes s t) ∧
    ((s.getV x).toNat > 0x0F → exec (.ldF x) s = .next s)

/-- LD B (42_index_memory.md R123): when I + 2 is an address, the three bytes from I on become hundreds, tens
and units of V[X], every other byte and everything else is unchanged. -/
def Obligations.BcdStoresThreeDigits : Prop :=
  ∀ (s : State) (x : Reg), s.i.toNat + 2 ≤ 0xFFF →
    ∃ t, exec (.ldB x) s = .next t ∧
      100 * (t.byteAt s.i.toNat).toNat + 10 * (t.byteAt (s.i.toNat + 1)).toNat +
        (t.byteAt (s.i.toNat + 2)).toNat = (s.getV x).toNat ∧
      (t.byteAt (s.i.toNat + 1)).toNat ≤ 9 ∧ (t.byteAt (s.i.toNat + 2)).toNat ≤ 9 ∧
      (∀ a, a < s.i.toNat ∨ s.i.toNat + 3 ≤ a → t.byteAt a = s.byteAt a) ∧
      t = { s with mem := t.mem }

/-- LD [I], Vx (42_index_memory.md R124; D7): when I + X is an address, V0 to VX go to the bytes from I on,
every other byte is unchanged, and I advances by X + 1 under Q_LOADSTORE only; nothing else changes. -/
def Obligations.StoreWritesRegistersAtI : Prop :=
  ∀ (s : State) (x : Reg), s.i.toNat + x.toNat ≤ 0xFFF →
    ∃ t, exec (.store x) s = .next t ∧
      (∀ k : Reg, k.toNat ≤ x.toNat → t.byteAt (s.i.toNat + k.toNat) = s.getV k) ∧
      (∀ a, a < s.i.toNat ∨ s.i.toNat + x.toNat < a → t.byteAt a = s.byteAt a) ∧
      t.i.toNat = s.i.toNat + (if s.quirks.loadStore then x.toNat + 1 else 0) ∧
      t = { s with mem := t.mem, i := t.i }

/-- LD Vx, [I] (42_index_memory.md R125; D7): when I + X is an address, V0 to VX are loaded from the bytes from
I on, higher registers and all memory are unchanged, and I advances by X + 1 under Q_LOADSTORE only. -/
def Obligations.LoadReadsRegistersFromI : Prop :=
  ∀ (s : State) (x : Reg), s.i.toNat + x.toNat ≤ 0xFFF →
    ∃ t, exec (.load x) s = .next t ∧
      (∀ k : Reg, k.toNat ≤ x.toNat → t.getV k = s.byteAt (s.i.toNat + k.toNat)) ∧
      (∀ k : Reg, x.toNat < k.toNat → t.getV k = s.getV k) ∧
      t.i.toNat = s.i.toNat + (if s.quirks.loadStore then x.toNat + 1 else 0) ∧
      t = { s with v := t.v, i := t.i } ∧ SameBytes s t

/-- Round trip (42_index_memory.md R126): after FX55, whatever else has happened, FX65 with the same X, the
same I and memory as the store left it brings V0 to VX back. -/
def Obligations.StoreThenLoadRestoresRegisters : Prop :=
  ∀ (s : State) (x : Reg), s.i.toNat + x.toNat ≤ 0xFFF →
    ∃ t, exec (.store x) s = .next t ∧
      ∀ t', t'.mem = t.mem → t'.cfg = t.cfg → t'.i = s.i →
        ∃ u, exec (.load x) t' = .next u ∧ ∀ k : Reg, k.toNat ≤ x.toNat → u.getV k = s.getV k

/-- Out-of-range accesses (20_memory.md R50, R59; D7, D9, D30, log 12): FX33, FX55, FX65 and DXYN have a next
state exactly when every address they touch is at most 0xFFF and are refused otherwise, never faulted; a CPU
step with PC above 0xFFE is refused at fetch. -/
def Obligations.OutOfRangeAccessIsRefused : Prop :=
  ∀ (s : State) (x y : Reg) (n : Nibble),
    ((∃ t, exec (.ldB x) s = .next t) ↔ s.i.toNat + 2 ≤ 0xFFF) ∧
    (s.i.toNat + 2 > 0xFFF → exec (.ldB x) s = .refused (.outOfRange (s.i.toNat + 2))) ∧
    ((∃ t, exec (.store x) s = .next t) ↔ s.i.toNat + x.toNat ≤ 0xFFF) ∧
    ((∃ t, exec (.load x) s = .next t) ↔ s.i.toNat + x.toNat ≤ 0xFFF) ∧
    (s.i.toNat + x.toNat > 0xFFF →
      exec (.store x) s = .refused (.outOfRange (s.i.toNat + x.toNat)) ∧
      exec (.load x) s = .refused (.outOfRange (s.i.toNat + x.toNat))) ∧
    ((∃ t, exec (.drw x y n) s = .next t) ↔ SpriteInRange s n) ∧
    (¬ SpriteInRange s n →
      exec (.drw x y n) s = .refused (.outOfRange (s.i.toNat + n.toNat - 1))) ∧
    (s.pc.toNat > 0xFFE → cpuStep s = .refused (.outOfRange (s.pc.toNat + 1)))

/-- A store is seen by the very next fetch (20_memory.md R57): after FX55 or FX33, with PC where a fetch
succeeds, the next fetch reads the stored bytes wherever they cover both, one or none of the bytes at PC and
PC+1, and the bytes that were there before elsewhere. -/
def Obligations.StoreIsSeenByNextFetch : Prop :=
  ∀ (s : State) (x : Reg), s.pc.toNat ≤ 0xFFE →
    (s.i.toNat + x.toNat ≤ 0xFFF → ∃ t, exec (.store x) s = .next t ∧
      FetchSeesStore s t (x.toNat + 1) (fun k => (s.getV (BitVec.ofNat 4 k)).toNat)) ∧
    (s.i.toNat + 2 ≤ 0xFFF → ∃ t, exec (.ldB x) s = .next t ∧
      FetchSeesStore s t 3 (fun k => (s.getV x).toNat / 10 ^ (2 - k) % 10))

/-! ## Display -/

/-- CLS (43_display.md R135, R140; D36, log 7): every cell is 0, the pulse Cleared is raised, nothing else
changes. -/
def Obligations.ClearScreenZeroesEveryCell : Prop :=
  ∀ s : State, ∃ t, exec .cls s = .next t ∧ (∀ y x, Framebuffer.cell t.fb y x = false) ∧
    Framebuffer.shaped s.cfg.fbW s.cfg.fbH t.fb ∧ t.out = .cleared :: s.out ∧
    t = { s with fb := t.fb, out := t.out } ∧ SameBytes s t

/-- DRW, the cells (43_display.md R136 to R138; D3, G5): with legal parameters, a framebuffer of its full size and
the sprite in range, it completes, and a cell is toggled exactly when a 1 bit of the sprite falls on it, each
axis wrapping on its own. -/
def Obligations.DrawTogglesExactlyTheSpriteCells : Prop :=
  ∀ (s : State) (x y : Reg) (n : Nibble), s.Legal → SpriteInRange s n →
    ∃ t, exec (.drw x y n) s = .next t ∧ Framebuffer.shaped s.cfg.fbW s.cfg.fbH t.fb ∧
      ∀ cy < s.cfg.fbH, ∀ cx < s.cfg.fbW,
        (SpriteCovers s x y n cy cx →
          Framebuffer.cell t.fb cy cx = !(Framebuffer.cell s.fb cy cx)) ∧
        (¬ SpriteCovers s x y n cy cx →
          Framebuffer.cell t.fb cy cx = Framebuffer.cell s.fb cy cx)

/-- DRW, the flag and the frame (43_display.md R136, R139, R140; C1, D36): VF is 1 exactly when some cell went
from 1 to 0, else 0; the other registers, I, memory and everything but the framebuffer and the pulse Drew are
unchanged. -/
def Obligations.DrawFlagIsCollision : Prop :=
  ∀ (s : State) (x y : Reg) (n : Nibble), s.Legal → SpriteInRange s n →
    ∃ t, exec (.drw x y n) s = .next t ∧
      ((∃ cy < s.cfg.fbH, ∃ cx < s.cfg.fbW,
          Framebuffer.cell s.fb cy cx = true ∧ Framebuffer.cell t.fb cy cx = false) → t.getV VF = 1) ∧
      ((∀ cy < s.cfg.fbH, ∀ cx < s.cfg.fbW,
          Framebuffer.cell s.fb cy cx = true → Framebuffer.cell t.fb cy cx = true) → t.getV VF = 0) ∧
      (∀ k, k ≠ VF → t.getV k = s.getV k) ∧ t.out = .drew :: s.out ∧
      t = { s with fb := t.fb, v := t.v, out := t.out } ∧ SameBytes s t

/-- Drawing twice (43_display.md R141): the same DXYN executed twice, neither coordinate in VF, leaves the
framebuffer as it was before the first. -/
def Obligations.DrawTwiceRestoresFramebuffer : Prop :=
  ∀ (s : State) (x y : Reg) (n : Nibble), s.Legal → SpriteInRange s n → x ≠ VF → y ≠ VF →
    ∃ t u, exec (.drw x y n) s = .next t ∧ exec (.drw x y n) t = .next u ∧ u.fb = s.fb

/-! ## Keys and timers -/

/-- SKP and SKNP (44_keys_timers.md R145, R146, R151; D15): the level of the key that V[X] names decides; an
index above 15 names a key that is not pressed. -/
def Obligations.KeySkipsReadTheNamedKey : Prop :=
  ∀ (s : State) (x : Reg),
    SkipsIf (.skp x) s ((s.getV x).toNat ≤ 15 ∧ s.keys.getLsbD (s.getV x).toNat = true) ∧
    SkipsIf (.sknp x) s ((s.getV x).toNat > 15 ∨ s.keys.getLsbD (s.getV x).toNat = false)

/-- LD Vx, K with no key down (44_keys_timers.md R147): it completes with PC two lower, so that a whole step at
it leaves the machine exactly as it was. -/
def Obligations.WaitForKeyRepeatsWithoutKey : Prop :=
  ∀ (s : State) (x : Reg), s.keys = 0 →
    (∃ t, exec (.ldVxK x) s = .next t ∧ t.pc + 2 = s.pc ∧ OnlyPc s t) ∧
    (∀ op, s.CpuNext → s.fetch = some op → decodeWord op = .ldVxK x → step s = .next s)

/-- LD Vx, K with a key down (44_keys_timers.md R147; D14, log 3): it completes with the index of a pressed key
in V[X], the lowest under the default KeySelect; nothing else changes. -/
def Obligations.WaitForKeyStoresPressedKey : Prop :=
  ∀ (s : State) (x : Reg), s.keys ≠ 0 →
    WritesRegister (.ldVxK x) s x (fun r => r.toNat ≤ 15 ∧ s.keys.getLsbD r.toNat = true ∧
      (s.cfg.keySelect = .lowest → ∀ j < r.toNat, s.keys.getLsbD j = false))

/-- FX07, FX15, FX18 (44_keys_timers.md R148 to R150): V[X] from DT, DT from V[X], ST from V[X]; nothing else
changes. After FX18 the sound output is active exactly when V[X] is not 0 (60_exceptions.md R183; D22). -/
def Obligations.TimerMovesCopyOneByte : Prop :=
  ∀ (s : State) (x : Reg),
    WritesRegister (.ldVxDT x) s x (fun r => r = s.dt) ∧
    (∃ t, exec (.ldDTVx x) s = .next t ∧ t.dt = s.getV x ∧ t = { s with dt := t.dt } ∧ SameBytes s t) ∧
    (∃ t, exec (.ldSTVx x) s = .next t ∧ t.st = s.getV x ∧
      (t.sndActive = true ↔ s.getV x ≠ 0) ∧ t = { s with st := t.st } ∧ SameBytes s t)

/-- The timer tick (60_exceptions.md R168; that one tick steps both timers is D20): both timers lose 1 unless
they are 0; nothing else changes. The sound output stays active exactly when ST was above 1 (R183, D22). -/
def Obligations.TimerTickDecrementsAndClamps : Prop :=
  ∀ (s : State) (rest : List Event), s.agenda = .tick :: rest → s.status = .running → s.quit = false →
    ∃ t, step s = .next t ∧ t.dt.toNat = s.dt.toNat - 1 ∧ t.st.toNat = s.st.toNat - 1 ∧
      (t.sndActive = true ↔ s.st.toNat > 1) ∧
      t = { s with agenda := rest, dt := t.dt, st := t.st } ∧ SameBytes s t

/-! ## Scheduler, host and reset -/

/-- The frame presentation (60_exceptions.md R170, R180; log 7): the whole framebuffer as it is is handed over
and no state of the machine changes. -/
def Obligations.PresentationHandsOverSnapshot : Prop :=
  ∀ (s : State) (rest : List Event), s.agenda = .present :: rest → s.status = .running → s.quit = false →
    ∃ t, step s = .next t ∧ t.out = .presented s.fb :: s.out ∧ t = { s with agenda := rest, out := t.out }

/-- The fatal state is terminal (60_exceptions.md R163; D18, log 6): with nothing queued the machine answers its
fault with the cause and the address, and every queued event but reset leaves all of the machine's state as it
was (the host may still move input levels). The outputs show the condition (R160, R180): fatal is 1, with the
cause code 1 or 2 and the recorded address. -/
def Obligations.FatalStateIsTerminal : Prop :=
  ∀ (s : State) (cause : Cause) (a : Word), s.status = .fatal cause a →
    s.fatalOut = true ∧ (cause = .stackOverflow → s.fatalInfo = (1, a)) ∧
    (cause = .stackUnderflow → s.fatalInfo = (2, a)) ∧
    (s.agenda = [] → (cause = .stackOverflow → step s = .fault (.stackOverflow a)) ∧
      (cause = .stackUnderflow → step s = .fault (.stackUnderflow a))) ∧
    (∀ e rest, s.agenda = e :: rest → (∀ rom now, e ≠ .host (.reset rom now)) →
      ∃ t, step s = .next t ∧
        t = { s with agenda := rest, keys := t.keys, straps := t.straps, rndQueue := t.rndQueue,
                     quit := t.quit })

/-- Reset (60_exceptions.md R176, 70_reset_and_hazards.md R190, R191, 10_state.md R33; D5, D18, D19, D21, log 8):
from any state, a fatal one too, with an image of at most 3584 bytes, every piece of state takes its reset
value; memory holds the image at 0x200, the font at FONT_BASE and 0 elsewhere. -/
def Obligations.ResetRestoresEveryPieceOfState : Prop :=
  ∀ (s : State) (rom : List Byte) (now : Rat) (rest : List Event),
    s.agenda = .host (.reset rom now) :: rest → rom.length ≤ 3584 → s.cfg.Legal →
    ∃ t, step s = .next t ∧ t.pc = 0x200 ∧ (∀ k, t.getV k = 0) ∧ t.i = 0 ∧ t.sp = 0 ∧
      (∀ k, t.stackEntry k = 0) ∧ t.stack.length = s.cfg.stackCap.size ∧ t.dt = 0 ∧ t.st = 0 ∧
      (∀ y x, Framebuffer.cell t.fb y x = false) ∧ t.status = .running ∧ t.fatalOut = false ∧
      t.sndActive = false ∧ t.quirks = s.straps ∧
      t.paused = false ∧ t.last.cpu = now ∧ t.last.timer = now ∧ t.last.frame = now ∧
      (∀ k (h : k < rom.length), t.byteAt (0x200 + k) = rom[k]) ∧
      (∀ k (h : k < 80), t.byteAt (s.cfg.fontBase + k) = s.cfg.font[k]) ∧
      (∀ a, (a < s.cfg.fontBase ∨ s.cfg.fontBase + 80 ≤ a) → (a < 0x200 ∨ 0x200 + rom.length ≤ a) →
        t.byteAt a = 0)

/-- The reset state of the model with the default parameters (10_state.md R33; D5, D4, log 8, log 9): PC 0x200,
every register 0, running, every cell clear, the standard font at 0x050 and 0 elsewhere. -/
def Obligations.ResetStateHasTheResetValues : Prop :=
  State.reset.pc.toNat = 0x200 ∧ (∀ k, State.reset.getV k = 0) ∧ State.reset.i = 0 ∧
  State.reset.sp = 0 ∧ State.reset.dt = 0 ∧ State.reset.st = 0 ∧ State.reset.status = .running ∧
  State.reset.fatalOut = false ∧ State.reset.sndActive = false ∧ State.reset.paused = false ∧
  (∀ y x, Framebuffer.cell State.reset.fb y x = false) ∧
  (∀ k (h : k < 80), State.reset.byteAt (0x050 + k) = Config.defaultFont[k]) ∧
  (∀ a, a < 0x050 ∨ 0x0A0 ≤ a → State.reset.byteAt a = 0)

/-- An image of more than 3584 bytes is refused at load (20_memory.md R45, 70_reset_and_hazards.md R193; D24). -/
def Obligations.OversizedImageIsRefused : Prop :=
  ∀ (s : State) (rom : List Byte) (now : Rat) (rest : List Event),
    s.agenda = .host (.reset rom now) :: rest → rom.length > 3584 →
    step s = .refused (.imageTooLong rom.length)

/-- Pause and single step (60_exceptions.md R182; D21, log 21): while paused a CPU event changes nothing, each step
pulse is exactly one CPU step, and ticks and presentations go on; the pulse does nothing when not paused
(log 6). -/
def Obligations.PauseGatesOnlyCpuSteps : Prop :=
  ∀ (s : State) (rest : List Event), s.status = .running → s.quit = false →
    (s.paused = true →
      (s.agenda = [] → step s = .next s) ∧
      (s.agenda = .cpu :: rest → step s = .next { s with agenda := rest }) ∧
      (s.agenda = .host .stepPulse :: rest → step s = cpuStep { s with agenda := rest }) ∧
      (s.agenda = .tick :: rest → ∃ t, step s = .next t ∧ t.dt.toNat = s.dt.toNat - 1 ∧
        t.st.toNat = s.st.toNat - 1 ∧ t = { s with agenda := rest, dt := t.dt, st := t.st }) ∧
      (s.agenda = .present :: rest →
        step s = .next { s with agenda := rest, out := .presented s.fb :: s.out })) ∧
    (s.paused = false → s.agenda = .host .stepPulse :: rest → step s = .next { s with agenda := rest }) ∧
    (∀ level, s.agenda = .host (.setPause level) :: rest →
      step s = .next { s with agenda := rest, paused := level })

/-- A scheduler pass (60_exceptions.md R172, R173; D19, log 20; exact rational seconds are log 4, the paused CPU
domain is D21, log 21): the whole periods elapsed in each domain come next as
events, CPU steps first, then ticks, then presentations; each LAST moves by exactly the periods issued, so that
less than one period remains; a paused CPU domain owes nothing and starts anew at `now`. -/
def Obligations.SchedulerPassIssuesWholePeriods : Prop :=
  ∀ (s : State) (now : Rat) (rest : List Event),
    s.agenda = .pass now :: rest → s.status = .running → s.quit = false → s.cfg.Legal →
    s.last.cpu ≤ now → s.last.timer ≤ now → s.last.frame ≤ now →
    ∃ (t : State) (nc nt nf : Nat), step s = .next t ∧
      t.agenda = List.replicate nc .cpu ++ (List.replicate nt .tick ++ (List.replicate nf .present ++ rest)) ∧
      (s.paused = true → nc = 0 ∧ t.last.cpu = now) ∧
      (s.paused = false → t.last.cpu = s.last.cpu + nc / s.cfg.cpuHz ∧ t.last.cpu ≤ now ∧
        now < t.last.cpu + 1 / s.cfg.cpuHz) ∧
      t.last.timer = s.last.timer + nt / 60 ∧ t.last.timer ≤ now ∧ now < t.last.timer + 1 / 60 ∧
      t.last.frame = s.last.frame + nf / s.cfg.frameHz ∧ t.last.frame ≤ now ∧
      now < t.last.frame + 1 / s.cfg.frameHz ∧
      t = { s with agenda := t.agenda, last := t.last }

/-- Quit (60_exceptions.md R181; D29, log 6): it changes nothing but the request itself, and from then on no CPU
step, tick, presentation, pass, step pulse or pause change alters the machine. The host may still drive the
key, strap and random inputs, repeat the request, and reset. -/
def Obligations.QuitStopsEveryEvent : Prop :=
  ∀ (s : State) (rest : List Event),
    (s.agenda = .host .quit :: rest → step s = .next { s with agenda := rest, quit := true }) ∧
    (s.quit = true →
      (s.status = .running → s.agenda = [] → step s = .next s) ∧
      (∀ e, e = .cpu ∨ e = .tick ∨ e = .present ∨ (∃ now, e = .pass now) ∨ e = .host .stepPulse ∨
          (∃ level, e = .host (.setPause level)) →
        s.agenda = e :: rest → step s = .next { s with agenda := rest }))

/-! ## Invariants and whole-machine rules -/

/-- Every step keeps a legal state legal: canonical memory within 4096 bytes, a full-size stack whose count never
exceeds its capacity, a full-size framebuffer, legal parameters (00_scope.md R4, 10_state.md R16, R20,
20_memory.md R40). -/
def Obligations.StepKeepsStateLegal : Prop :=
  ∀ s t : State, s.Legal → step s = .next t → t.Legal

/-- The reset state is legal and meets the bound on I. -/
def Obligations.ResetStateIsLegal : Prop := State.reset.Legal ∧ State.reset.IndexBound

/-- With I_ADD_TRUNC12, I never exceeds 0x1000 (10_state.md R15; D8): every step keeps the bound. -/
def Obligations.StepKeepsIndexBound : Prop :=
  ∀ s t : State, s.cfg.Legal → s.IndexBound → step s = .next t → t.IndexBound

/-- The parameters never change, and the quirk flags change only by sampling the straps at a reset (10_state.md
R21, 60_exceptions.md R178). -/
def Obligations.ConfigurationIsFixedUntilReset : Prop :=
  ∀ s t : State, step s = .next t → t.cfg = s.cfg ∧
    (t.quirks = s.quirks ∨
      ∃ rom now rest, s.agenda = .host (.reset rom now) :: rest ∧ t.quirks = s.straps)

/-- Nothing but CALL on a full stack and RET on an empty one raises anything: no instruction faults, no other
changes STATUS, and a step faults only in a state that is already fatal (60_exceptions.md R160, R163, R164;
D18). The output fatal is 1 exactly in such a state (R180). -/
def Obligations.OnlyTwoConditionsAreFatal : Prop :=
  (∀ (i : Instr) (s : State) (f : Fault), exec i s ≠ .fault f) ∧
  (∀ (i : Instr) (s t : State), exec i s = .next t → t.status ≠ s.status →
    (∃ nnn, i = .call nnn ∧ s.sp = s.cfg.stackCap.size) ∨ (i = .ret ∧ s.sp = 0)) ∧
  (∀ (s : State) (f : Fault), step s = .fault f → ∃ cause a, s.status = .fatal cause a) ∧
  (∀ s : State, s.fatalOut = true ↔ ∃ cause a, s.status = .fatal cause a)

/-- Each piece of state is written only by the instructions that own it (10_state.md R11, R13 to R16, R18 to R21,
R31; 20_memory.md R41; 41_alu.md R111): the frame of every instruction, by what it may not write. PC, which
fetch has advanced before, is moved only by jumps, CALL, RET, skips and FX0A. -/
def Obligations.EachStateIsWrittenOnlyByItsInstructions : Prop :=
  ∀ (i : Instr) (s t : State), exec i s = .next t →
    (writesMemory i = false → t.mem = s.mem ∧ SameBytes s t) ∧
    (writesScreen i = false → t.fb = s.fb ∧ t.out = s.out) ∧
    (movesPc i = false → t.pc = s.pc) ∧ (writesIndex i = false → t.i = s.i) ∧
    (usesStack i = false → t.stack = s.stack ∧ t.sp = s.sp ∧ t.status = s.status) ∧
    (writesDT i = false → t.dt = s.dt) ∧ (writesST i = false → t.st = s.st) ∧
    (usesRandom i = false → t.draws = s.draws ∧ t.rndQueue = s.rndQueue) ∧
    (∀ k, isDestination i k = false → (k = VF → isFlagWriter i = false) → t.getV k = s.getV k) ∧
    t.quirks = s.quirks ∧ t.last = s.last ∧ t.paused = s.paused ∧ t.keys = s.keys ∧
    t.straps = s.straps ∧ t.quit = s.quit ∧ t.cfg = s.cfg ∧ t.agenda = s.agenda

/-- Only EX9E, EXA1 and FX0A read the keys (10_state.md R31): any other instruction does the same with any key
levels. -/
def Obligations.OnlyKeyInstructionsReadKeys : Prop :=
  ∀ (i : Instr) (s : State) (levels : BitVec 16), readsKeys i = false →
    (∀ t, exec i s = .next t → exec i { s with keys := levels } = .next { t with keys := levels }) ∧
    (∀ r, exec i s = .refused r → exec i { s with keys := levels } = .refused r)

/-- At the conventional end of a run, a jump to its own address, a CPU step leaves the whole state unchanged
(70_reset_and_hazards.md R198; D37). -/
def Obligations.SelfJumpChangesNothing : Prop :=
  ∀ s : State, s.CpuNext → s.AtEnd → step s = .next s
end

