-- ==== Sys2Proof/Laws/Encoding.lean ====
section
/-! SUPPORT. The fields of a packed word, packing the fields of a word, and what the masks of the opcode
map leave of a packed word. -/

namespace Sys2Proof

variable (f : Nibble) (nnn : Addr12) (x y : Reg) (n : Nibble) (nn : Byte) (op : Word)

theorem toNat_append {k m : Nat} (a : BitVec k) (b : BitVec m) :
    (a ++ b).toNat = a.toNat * 2 ^ m + b.toNat := by
  rw [BitVec.toNat_append, ← Nat.shiftLeft_add_eq_or_of_lt b.isLt, Nat.shiftLeft_eq]

theorem packNNN_toNat : (packNNN f nnn).toNat = f.toNat * 4096 + nnn.toNat := toNat_append f nnn

theorem packXNN_toNat : (packXNN f x nn).toNat = f.toNat * 4096 + x.toNat * 256 + nn.toNat :=
  (toNat_append (f ++ x) nn).trans (by rw [toNat_append f x]; omega)

theorem packXYN_toNat :
    (packXYN f x y n).toNat = f.toNat * 4096 + x.toNat * 256 + y.toNat * 16 + n.toNat :=
  (toNat_append (f ++ x ++ y) n).trans
    (by rw [toNat_append (f ++ x) y, toNat_append f x]; omega)

theorem fieldF_toNat : (fieldF op).toNat = op.toNat / 4096 := by
  have := op.isLt
  simp only [fieldF, BitVec.extractLsb'_toNat, Nat.shiftRight_eq_div_pow]; omega
theorem fieldX_toNat : (fieldX op).toNat = op.toNat / 256 % 16 := by
  simp only [fieldX, BitVec.extractLsb'_toNat, Nat.shiftRight_eq_div_pow]
theorem fieldY_toNat : (fieldY op).toNat = op.toNat / 16 % 16 := by
  simp only [fieldY, BitVec.extractLsb'_toNat, Nat.shiftRight_eq_div_pow]
theorem fieldN_toNat : (fieldN op).toNat = op.toNat % 16 := by
  simp only [fieldN, BitVec.extractLsb'_toNat, Nat.shiftRight_eq_div_pow]; omega
theorem fieldNN_toNat : (fieldNN op).toNat = op.toNat % 256 := by
  simp only [fieldNN, BitVec.extractLsb'_toNat, Nat.shiftRight_eq_div_pow]; omega
theorem fieldNNN_toNat : (fieldNNN op).toNat = op.toNat % 4096 := by
  simp only [fieldNNN, BitVec.extractLsb'_toNat, Nat.shiftRight_eq_div_pow]; omega

@[simp] theorem fieldF_packNNN : fieldF (packNNN f nnn) = f := by
  have := nnn.isLt; apply BitVec.eq_of_toNat_eq; rw [fieldF_toNat, packNNN_toNat]; omega
@[simp] theorem fieldNNN_packNNN : fieldNNN (packNNN f nnn) = nnn := by
  have := nnn.isLt; apply BitVec.eq_of_toNat_eq; rw [fieldNNN_toNat, packNNN_toNat]; omega
@[simp] theorem fieldF_packXNN : fieldF (packXNN f x nn) = f := by
  have := nn.isLt; have := x.isLt; apply BitVec.eq_of_toNat_eq; rw [fieldF_toNat, packXNN_toNat]; omega
@[simp] theorem fieldX_packXNN : fieldX (packXNN f x nn) = x := by
  have := nn.isLt; have := x.isLt; apply BitVec.eq_of_toNat_eq; rw [fieldX_toNat, packXNN_toNat]; omega
@[simp] theorem fieldNN_packXNN : fieldNN (packXNN f x nn) = nn := by
  have := nn.isLt; apply BitVec.eq_of_toNat_eq; rw [fieldNN_toNat, packXNN_toNat]; omega
@[simp] theorem fieldF_packXYN : fieldF (packXYN f x y n) = f := by
  have := n.isLt; have := y.isLt; have := x.isLt
  apply BitVec.eq_of_toNat_eq; rw [fieldF_toNat, packXYN_toNat]; omega
@[simp] theorem fieldX_packXYN : fieldX (packXYN f x y n) = x := by
  have := n.isLt; have := y.isLt; have := x.isLt
  apply BitVec.eq_of_toNat_eq; rw [fieldX_toNat, packXYN_toNat]; omega
@[simp] theorem fieldY_packXYN : fieldY (packXYN f x y n) = y := by
  have := n.isLt; have := y.isLt
  apply BitVec.eq_of_toNat_eq; rw [fieldY_toNat, packXYN_toNat]; omega
@[simp] theorem fieldN_packXYN : fieldN (packXYN f x y n) = n := by
  have := n.isLt; apply BitVec.eq_of_toNat_eq; rw [fieldN_toNat, packXYN_toNat]; omega

/-- A word is its fields packed again, in each format of R62. -/
theorem packNNN_fields : packNNN (fieldF op) (fieldNNN op) = op := by
  apply BitVec.eq_of_toNat_eq; rw [packNNN_toNat, fieldF_toNat, fieldNNN_toNat]; omega
theorem packXNN_fields : packXNN (fieldF op) (fieldX op) (fieldNN op) = op := by
  apply BitVec.eq_of_toNat_eq; rw [packXNN_toNat, fieldF_toNat, fieldX_toNat, fieldNN_toNat]; omega
theorem packXYN_fields : packXYN (fieldF op) (fieldX op) (fieldY op) (fieldN op) = op := by
  apply BitVec.eq_of_toNat_eq
  rw [packXYN_toNat, fieldF_toNat, fieldX_toNat, fieldY_toNat, fieldN_toNat]; omega

/-- The bytes of a word compose to the word again (20_memory.md R46). -/
theorem composeWord_bytes : composeWord (op.extractLsb' 8 8) (op.extractLsb' 0 8) = op := by
  have := op.isLt
  apply BitVec.eq_of_toNat_eq
  refine (toNat_append (op.extractLsb' 8 8) (op.extractLsb' 0 8)).trans ?_
  simp only [BitVec.extractLsb'_toNat, Nat.shiftRight_eq_div_pow]
  omega

/-- The bytes of the word that two bytes compose are those bytes (20_memory.md R46). -/
theorem wordBytes_composeWord (hi lo : Byte) : wordBytes (composeWord hi lo) = [hi, lo] := by
  have h := hi.isLt
  have l := lo.isLt
  have e : (composeWord hi lo).toNat = hi.toNat * 2 ^ 8 + lo.toNat := toNat_append hi lo
  unfold wordBytes
  congr 1
  · apply BitVec.eq_of_toNat_eq
    simp only [BitVec.extractLsb'_toNat, Nat.shiftRight_eq_div_pow, e]
    omega
  · congr 1
    apply BitVec.eq_of_toNat_eq
    simp only [BitVec.extractLsb'_toNat, Nat.shiftRight_eq_div_pow, e]
    omega

/-! The masks of R65 -/

@[simp] theorem packNNN_mask : packNNN f nnn &&& 0xF000#16 = packNNN f 0 := by
  show (f ++ nnn) &&& (0xF#4 ++ 0#12) = f ++ 0#12
  rw [BitVec.and_append, BitVec.and_zero, show (0xF#4) = BitVec.allOnes 4 from rfl, BitVec.and_allOnes]
@[simp] theorem packXNN_mask : packXNN f x nn &&& 0xF000#16 = packXNN f 0 0 := by
  show (f ++ x ++ nn) &&& (0xF#4 ++ 0#4 ++ 0#8) = f ++ 0#4 ++ 0#8
  rw [BitVec.and_append, BitVec.and_append, BitVec.and_zero, BitVec.and_zero,
    show (0xF#4) = BitVec.allOnes 4 from rfl, BitVec.and_allOnes]
@[simp] theorem packXNN_maskLow : packXNN f x nn &&& 0xF0FF#16 = packXNN f 0 nn := by
  show (f ++ x ++ nn) &&& (0xF#4 ++ 0#4 ++ 0xFF#8) = f ++ 0#4 ++ nn
  rw [BitVec.and_append, BitVec.and_append, BitVec.and_zero,
    show (0xF#4) = BitVec.allOnes 4 from rfl, show (0xFF#8) = BitVec.allOnes 8 from rfl,
    BitVec.and_allOnes, BitVec.and_allOnes]
@[simp] theorem packXYN_mask : packXYN f x y n &&& 0xF000#16 = packXYN f 0 0 0 := by
  show (f ++ x ++ y ++ n) &&& (0xF#4 ++ 0#4 ++ 0#4 ++ 0#4) = f ++ 0#4 ++ 0#4 ++ 0#4
  rw [BitVec.and_append, BitVec.and_append, BitVec.and_append, BitVec.and_zero, BitVec.and_zero,
    BitVec.and_zero, show (0xF#4) = BitVec.allOnes 4 from rfl, BitVec.and_allOnes]
@[simp] theorem packXYN_maskLow : packXYN f x y n &&& 0xF00F#16 = packXYN f 0 0 n := by
  show (f ++ x ++ y ++ n) &&& (0xF#4 ++ 0#4 ++ 0#4 ++ 0xF#4) = f ++ 0#4 ++ 0#4 ++ n
  rw [BitVec.and_append, BitVec.and_append, BitVec.and_append, BitVec.and_zero, BitVec.and_zero,
    show (0xF#4) = BitVec.allOnes 4 from rfl, BitVec.and_allOnes, BitVec.and_allOnes]

end Sys2Proof
end

