-- ==== Sys2Proof/Laws/Framebuffer.lean ====
section
/-! SUPPORT. The laws of the framebuffer: reading a cell after a write, the blank grid, the shape kept by
every drawing operation, and the cells and the flag of a sprite. -/

namespace Sys2Proof.Machine

variable {w h : Nat} {fb : Framebuffer}

@[simp] theorem Framebuffer.cell_blank (w h y x : Nat) :
    Framebuffer.cell (Framebuffer.blank w h) y x = false := by
  unfold Framebuffer.cell Framebuffer.blank
  by_cases hy : y < h
  · by_cases hx : x < w <;> simp [List.getD_eq_getElem?_getD, hy, hx]
  · simp [List.getD_eq_getElem?_getD, hy]

theorem Framebuffer.shaped_blank (w h : Nat) : Framebuffer.shaped w h (Framebuffer.blank w h) := by
  refine ⟨by simp [Framebuffer.blank], fun row hr => ?_⟩
  simp [List.eq_of_mem_replicate hr]

theorem Framebuffer.shaped_setCell (hs : Framebuffer.shaped w h fb) (y x : Nat) (b : Bool) :
    Framebuffer.shaped w h (Framebuffer.setCell fb y x b) := by
  refine ⟨by simpa [Framebuffer.setCell] using hs.1, fun row hr => ?_⟩
  obtain ⟨k, hk, rfl⟩ := List.mem_iff_getElem.mp hr
  simp only [Framebuffer.setCell, List.length_modify] at hk
  simp only [Framebuffer.setCell, List.getElem_modify]
  split
  · simpa using hs.2 _ (List.getElem_mem hk)
  · exact hs.2 _ (List.getElem_mem hk)

/-- A cell of the grid after one cell has been written. -/
theorem Framebuffer.cell_setCell (hs : Framebuffer.shaped w h fb) {y x : Nat} (hy : y < h) (hx : x < w)
    (b : Bool) (y' x' : Nat) :
    Framebuffer.cell (Framebuffer.setCell fb y x b) y' x' =
      if y' = y ∧ x' = x then b else Framebuffer.cell fb y' x' := by
  obtain ⟨h1, h2⟩ := hs
  have hyl : y < fb.length := h1 ▸ hy
  have hrow : fb[y].length = w := h2 _ (List.getElem_mem hyl)
  unfold Framebuffer.cell Framebuffer.setCell
  simp only [List.getD_eq_getElem?_getD, List.getElem?_modify]
  by_cases e : y = y'
  · subst e
    by_cases e2 : x = x'
    · subst e2; simp [List.getElem?_eq_getElem hyl, hrow, hx]
    · simp [List.getElem?_eq_getElem hyl, List.getElem?_set_ne e2, Ne.symm e2]
  · simp [e, Ne.symm e]

theorem drawCell_shaped (x0 y0 row : Nat) (b : Byte) (d : Drawing) (col : Nat)
    (hs : Framebuffer.shaped w h d.1) :
    Framebuffer.shaped w h (drawCell w h x0 y0 row b d col).1 := by
  unfold drawCell
  split
  · exact Framebuffer.shaped_setCell hs _ _ _
  · exact hs

theorem drawRow_shaped (x0 y0 row : Nat) (b : Byte) (d : Drawing) (hs : Framebuffer.shaped w h d.1) :
    Framebuffer.shaped w h (drawRow w h x0 y0 row b d).1 := by
  unfold drawRow
  generalize List.range 8 = cols
  induction cols generalizing d with
  | nil => exact hs
  | cons c r ih => exact ih _ (drawCell_shaped _ _ _ _ _ _ hs)

theorem drawRows_shaped (x0 y0 row : Nat) (rows : List Byte) (d : Drawing)
    (hs : Framebuffer.shaped w h d.1) :
    Framebuffer.shaped w h (drawRows w h x0 y0 row rows d).1 := by
  induction rows generalizing row d with
  | nil => exact hs
  | cons b r ih => exact ih _ _ (drawRow_shaped _ _ _ _ _ hs)

/-- A draw keeps the shape of the grid. -/
theorem drawSprite_shaped (x0 y0 : Nat) (rows : List Byte) (hs : Framebuffer.shaped w h fb) :
    Framebuffer.shaped w h (drawSprite w h x0 y0 rows fb).1 :=
  drawRows_shaped _ _ _ _ _ hs

/-- The sprite row `b` started at column `x0` has a 1 bit on column `cx` among its first `m` columns. -/
abbrev RowHits (w x0 : Nat) (b : Byte) (m cx : Nat) : Prop :=
  ∃ col < m, spriteBit b col = true ∧ (x0 + col) % w = cx

/-- What the first `m` columns of a sprite row do: exactly the hit cells of that row of the grid are
toggled, and the collision flag records whether one of them was set. -/
theorem drawCols_spec (hw : 8 ≤ w) (hh : 0 < h) (x0 y0 row : Nat) (b : Byte) (d : Drawing)
    (hs : Framebuffer.shaped w h d.1) (m : Nat) (hm : m ≤ 8) :
    Framebuffer.shaped w h ((List.range m).foldl (drawCell w h x0 y0 row b) d).1 ∧
    (∀ cy cx, Framebuffer.cell ((List.range m).foldl (drawCell w h x0 y0 row b) d).1 cy cx =
      (Framebuffer.cell d.1 cy cx ^^ decide (cy = (y0 + row) % h ∧ RowHits w x0 b m cx))) ∧
    (((List.range m).foldl (drawCell w h x0 y0 row b) d).2 = true ↔
      d.2 = true ∨ ∃ cx, RowHits w x0 b m cx ∧ Framebuffer.cell d.1 ((y0 + row) % h) cx = true) := by
  induction m with
  | zero => simpa [RowHits] using hs
  | succ m ih =>
    obtain ⟨h1, h2, h3⟩ := ih (by omega)
    rw [List.range_succ, List.foldl_append]
    generalize (List.range m).foldl (drawCell w h x0 y0 row b) d = e at h1 h2 h3
    simp only [List.foldl_cons, List.foldl_nil]
    have hstep : ∀ cx, RowHits w x0 b (m + 1) cx ↔
        RowHits w x0 b m cx ∨ (spriteBit b m = true ∧ (x0 + m) % w = cx) := by
      intro cx
      constructor
      · rintro ⟨c, hc, hb, he⟩
        rcases Nat.lt_succ_iff_lt_or_eq.mp hc with hc | rfl
        · exact .inl ⟨c, hc, hb, he⟩
        · exact .inr ⟨hb, he⟩
      · rintro (⟨c, hc, hb, he⟩ | ⟨hb, he⟩)
        · exact ⟨c, by omega, hb, he⟩
        · exact ⟨m, by omega, hb, he⟩
    by_cases hb : spriteBit b m = true
    · have hnew : ¬ RowHits w x0 b m ((x0 + m) % w) := by
        rintro ⟨c, hc, -, he⟩
        have := (Nat.ModEq.add_left_cancel' x0 (show x0 + c ≡ x0 + m [MOD w] from he))
        have := Nat.ModEq.eq_of_lt_of_lt this (by omega) (by omega)
        omega
      have hold : Framebuffer.cell e.1 ((y0 + row) % h) ((x0 + m) % w) =
          Framebuffer.cell d.1 ((y0 + row) % h) ((x0 + m) % w) := by
        rw [h2]; simp [hnew]
      simp only [drawCell, hb, if_true]
      refine ⟨Framebuffer.shaped_setCell h1 _ _ _, fun cy cx => ?_, ?_⟩
      · rw [Framebuffer.cell_setCell h1 (Nat.mod_lt _ hh) (Nat.mod_lt _ (by omega))]
        split
        · next hc =>
          obtain ⟨rfl, rfl⟩ := hc
          have hx : RowHits w x0 b (m + 1) ((x0 + m) % w) := (hstep _).mpr (.inr ⟨hb, rfl⟩)
          rw [hold]; simp [hx]
        · next hc =>
          rw [h2]
          congr 1
          simp only [decide_eq_decide, and_congr_right_iff]
          intro hy
          rw [hstep]
          constructor
          · exact .inl
          · rintro (hx | ⟨-, hx⟩)
            · exact hx
            · exact absurd ⟨hy, hx.symm⟩ hc
      · rw [Bool.or_eq_true, h3, hold, or_assoc]
        refine or_congr_right ?_
        constructor
        · rintro (⟨cx, hx, hc⟩ | hc)
          · exact ⟨cx, (hstep _).mpr (.inl hx), hc⟩
          · exact ⟨_, (hstep _).mpr (.inr ⟨hb, rfl⟩), hc⟩
        · rintro ⟨cx, hx, hc⟩
          rcases (hstep _).mp hx with hx | ⟨-, rfl⟩
          · exact .inl ⟨cx, hx, hc⟩
          · exact .inr hc
    · have hsame : ∀ cx, RowHits w x0 b (m + 1) cx ↔ RowHits w x0 b m cx := by
        intro cx; rw [hstep]; simp [hb]
      have hid : drawCell w h x0 y0 row b e m = e := by simp [drawCell, hb]
      rw [hid]
      refine ⟨h1, fun cy cx => ?_, ?_⟩
      · rw [h2]; simp only [hsame]
      · rw [h3]; simp only [hsame]

/-- The sprite `rows`, whose first row has number `row`, has a 1 bit on the cell. -/
abbrev SpriteHits (w h x0 y0 row : Nat) (rows : List Byte) (cy cx : Nat) : Prop :=
  ∃ k < rows.length, (y0 + (row + k)) % h = cy ∧ RowHits w x0 (rows.getD k 0) 8 cx

/-- What a sprite does, when it has no more rows than the grid: exactly the hit cells are toggled, and the
collision flag records whether one of them was set. -/
theorem drawRows_spec (hw : 8 ≤ w) (hh : 0 < h) (x0 y0 row : Nat) (rows : List Byte) (d : Drawing)
    (hs : Framebuffer.shaped w h d.1) (hr : rows.length ≤ h) :
    (∀ cy cx, Framebuffer.cell (drawRows w h x0 y0 row rows d).1 cy cx =
      (Framebuffer.cell d.1 cy cx ^^ decide (SpriteHits w h x0 y0 row rows cy cx))) ∧
    ((drawRows w h x0 y0 row rows d).2 = true ↔
      d.2 = true ∨ ∃ cy cx, SpriteHits w h x0 y0 row rows cy cx ∧ Framebuffer.cell d.1 cy cx = true) := by
  induction rows generalizing row d with
  | nil => simp [drawRows, SpriteHits]
  | cons b rest ih =>
    simp only [List.length_cons] at hr
    obtain ⟨h1, h2, h3⟩ := drawCols_spec hw hh x0 y0 row b d hs 8 (Nat.le_refl 8)
    rw [show (List.range 8).foldl (drawCell w h x0 y0 row b) d = drawRow w h x0 y0 row b d from rfl] at h1 h2 h3
    obtain ⟨g2, g3⟩ := ih (row + 1) (drawRow w h x0 y0 row b d) h1 (by omega)
    have hsplit : ∀ cy cx, SpriteHits w h x0 y0 row (b :: rest) cy cx ↔
        ((cy = (y0 + row) % h ∧ RowHits w x0 b 8 cx) ∨ SpriteHits w h x0 y0 (row + 1) rest cy cx) := by
      intro cy cx
      constructor
      · rintro ⟨k, hk, hy, hx⟩
        cases k with
        | zero => exact .inl ⟨by simpa using hy.symm, by simpa using hx⟩
        | succ k => exact .inr ⟨k, by simpa using hk, by rw [← hy]; congr 1; omega, by simpa using hx⟩
      · rintro (⟨rfl, hx⟩ | ⟨k, hk, hy, hx⟩)
        · exact ⟨0, by simp, by simp, by simpa using hx⟩
        · exact ⟨k + 1, by simpa using hk, by rw [← hy]; congr 1; omega, by simpa using hx⟩
    have hdisj : ∀ cx, ¬ SpriteHits w h x0 y0 (row + 1) rest ((y0 + row) % h) cx := by
      rintro cx ⟨k, hk, hy, -⟩
      have e : y0 + row + (k + 1) ≡ y0 + row + 0 [MOD h] := by
        show (y0 + row + (k + 1)) % h = (y0 + row) % h
        rw [← hy]; congr 1; omega
      have := Nat.ModEq.eq_of_lt_of_lt (Nat.ModEq.add_left_cancel' _ e) (by omega) (by omega)
      omega
    simp only [drawRows]
    constructor
    · intro cy cx
      rw [g2, h2, Bool.xor_assoc]
      congr 1
      by_cases hc : cy = (y0 + row) % h ∧ RowHits w x0 b 8 cx
      · have := hdisj cx
        rw [← hc.1] at this
        simp [hsplit, hc]
        simpa [hc.1] using this
      · simp [hsplit, hc]
    · rw [g3, h3, or_assoc]
      refine or_congr_right ?_
      constructor
      · rintro (⟨cx, hx, hc⟩ | ⟨cy, cx, hx, hc⟩)
        · exact ⟨_, cx, (hsplit _ _).mpr (.inl ⟨rfl, hx⟩), hc⟩
        · refine ⟨cy, cx, (hsplit _ _).mpr (.inr hx), ?_⟩
          rw [h2] at hc
          have hne : ¬ (cy = (y0 + row) % h ∧ RowHits w x0 b 8 cx) := fun c => hdisj cx (c.1 ▸ hx)
          simpa [hne] using hc
      · rintro ⟨cy, cx, hx, hc⟩
        rcases (hsplit _ _).mp hx with ⟨rfl, hr⟩ | hx
        · exact .inl ⟨cx, hr, hc⟩
        · refine .inr ⟨cy, cx, hx, ?_⟩
          have hne : ¬ (cy = (y0 + row) % h ∧ RowHits w x0 b 8 cx) := fun c => hdisj cx (c.1 ▸ hx)
          rw [h2]; simpa [hne] using hc

end Sys2Proof.Machine
end

