-- ==== Sys2Proof/Laws/Memory.lean ====
section
/-! SUPPORT. The laws of the memory operations: a read after a write, and the canonical form kept. -/

namespace Sys2Proof.Machine

variable (c : Config)

theorem Memory.lookup_put (m : Memory) (a : Nat) (b : Byte) (a' : Nat) :
    Memory.lookup (Memory.put m a b) a' = if a' = a then some b else Memory.lookup m a' := by
  induction m with
  | nil => simp [Memory.put, Memory.lookup, eq_comm]
  | cons e r ih =>
    unfold Memory.put
    split
    · simp [Memory.lookup, eq_comm]
    · split
      · next h => subst h; by_cases h' : a' = e.1 <;> simp [Memory.lookup, h', eq_comm]
      · next h =>
        by_cases h' : e.1 = a'
        · subst h'; simp [Memory.lookup, Ne.symm h]
        · simp [Memory.lookup, h', ih]

theorem Memory.lookup_erase (m : Memory) (a a' : Nat) :
    Memory.lookup (Memory.erase m a) a' = if a' = a then none else Memory.lookup m a' := by
  induction m with
  | nil => simp [Memory.erase, Memory.lookup]
  | cons e r ih =>
    simp only [Memory.erase] at ih ⊢
    rw [List.filter_cons]
    by_cases h : e.1 = a
    · subst h; by_cases h' : e.1 = a' <;> simp_all [Memory.lookup, eq_comm]
    · by_cases h' : e.1 = a'
      · subst h'; simp [h, Memory.lookup]
      · simpa [h, h', Memory.lookup] using ih

/-- A read after a write: the byte written, and every other address as before (20_memory.md R40). -/
@[simp] theorem Memory.read_write (m : Memory) (a : Nat) (b : Byte) (a' : Nat) :
    Memory.read c (Memory.write c m a b) a' = if a' = a then b else Memory.read c m a' := by
  unfold Memory.write
  split
  · next h => by_cases h' : a' = a <;> simp [Memory.read, Memory.lookup_erase, h', h]
  · by_cases h' : a' = a <;> simp [Memory.read, Memory.lookup_put, h']

/-- Reading after a list of bytes has been written at `base`. -/
theorem Memory.read_writeList (m : Memory) (base : Nat) (bs : List Byte) (a : Nat) :
    Memory.read c (Memory.writeList c m base bs) a =
      if base ≤ a ∧ a < base + bs.length then bs.getD (a - base) 0 else Memory.read c m a := by
  induction bs generalizing m base with
  | nil => rw [if_neg (by simp)]; rfl
  | cons b r ih =>
    simp only [Memory.writeList, ih, Memory.read_write, List.length_cons]
    by_cases h : a = base
    · subst h; simp
    · by_cases h1 : base + 1 ≤ a ∧ a < base + 1 + r.length
      · have : a - base = (a - (base + 1)) + 1 := by omega
        rw [if_pos h1, if_pos (by omega), this]; simp
      · rw [if_neg h1, if_neg h, if_neg (by omega)]

/-- Reading after the program image has been loaded at `base` (R45). -/
theorem Memory.read_load (m : Memory) (base : Nat) (bs : List Byte) (a : Nat) :
    Memory.read c (Memory.load c m base bs) a =
      if base ≤ a ∧ a < base + bs.length then bs.getD (a - base) 0 else Memory.read c m a := by
  induction bs generalizing base with
  | nil => rw [if_neg (by simp)]; rfl
  | cons b r ih =>
    simp only [Memory.load, ih, Memory.read_write, List.length_cons]
    by_cases h : a = base
    · subst h; simp
    · by_cases h1 : base + 1 ≤ a ∧ a < base + 1 + r.length
      · have : a - base = (a - (base + 1)) + 1 := by omega
        rw [if_neg h, if_pos h1, if_pos (by omega), this]; simp
      · rw [if_neg h, if_neg h1, if_neg (by omega)]

theorem Memory.mem_put (m : Memory) (a : Nat) (b : Byte) (e : Host.Cell) :
    e ∈ Memory.put m a b → e = (a, b) ∨ e ∈ m := by
  induction m with
  | nil => simp [Memory.put]
  | cons f r ih =>
    unfold Memory.put
    split
    · simp
    · split
      · simp only [List.mem_cons]; tauto
      · simp only [List.mem_cons]; intro h; rcases h with h | h
        · tauto
        · have := ih h; tauto

/-- Writing at an address that exists keeps the canonical form. -/
theorem Memory.wf_write (m : Memory) (a : Nat) (b : Byte) (h : Memory.wf c m) (ha : a < memSize) :
    Memory.wf c (Memory.write c m a b) := by
  obtain ⟨hs, hb⟩ := h
  unfold Memory.write
  split
  · exact ⟨hs.filter _, fun e he => hb e (List.mem_filter.mp he).1⟩
  · next hne =>
    refine ⟨?_, fun e he => ?_⟩
    · clear hb
      induction m with
      | nil => simp [Memory.put]
      | cons f r ih =>
        obtain ⟨hf, hr⟩ := List.pairwise_cons.mp hs
        unfold Memory.put
        split
        · next hlt =>
          refine List.pairwise_cons.mpr ⟨fun e he => ?_, hs⟩
          rcases List.mem_cons.mp he with rfl | he
          · exact hlt
          · exact lt_trans hlt (hf e he)
        · split
          · next heq => exact List.pairwise_cons.mpr ⟨fun e he => by simpa [heq] using hf e he, hr⟩
          · next hnl hn =>
            refine List.pairwise_cons.mpr ⟨fun e he => ?_, ih hr⟩
            rcases Memory.mem_put _ _ _ _ he with rfl | he
            · simp only; omega
            · exact hf e he
    · rcases Memory.mem_put _ _ _ _ he with rfl | he
      · exact ⟨ha, hne⟩
      · exact hb e he

/-- Writing a list of bytes that fits keeps the canonical form. -/
theorem Memory.wf_writeList (m : Memory) (base : Nat) (bs : List Byte) (h : Memory.wf c m)
    (ha : base + bs.length ≤ memSize) : Memory.wf c (Memory.writeList c m base bs) := by
  induction bs generalizing m base with
  | nil => exact h
  | cons b r ih =>
    simp only [List.length_cons] at ha
    exact ih _ _ (Memory.wf_write c m base b h (by omega)) (by omega)

/-- Loading an image that fits keeps the canonical form. -/
theorem Memory.wf_load (m : Memory) (base : Nat) (bs : List Byte) (h : Memory.wf c m)
    (ha : base + bs.length ≤ memSize) : Memory.wf c (Memory.load c m base bs) := by
  induction bs generalizing base with
  | nil => exact h
  | cons b r ih =>
    simp only [List.length_cons] at ha
    exact Memory.wf_write c _ base b (ih _ (by omega)) (by omega)

/-- The empty memory is canonical. -/
theorem Memory.wf_nil : Memory.wf c [] := by simp [Memory.wf]

end Sys2Proof.Machine
end

