-- ==== Sys2Proof/Laws/State.lean ====
section
/-! SUPPORT. What each operation does to each field of the state: one lemma per field per update, so that
no later proof unfolds a record update. -/

namespace Sys2Proof.Machine

variable (s : State)

/-! `State.setV` -/

@[simp] theorem State.setV_v (x : Reg) (b : Byte) : (s.setV x b).v = s.v.set x.toNat b x.isLt := rfl
@[simp] theorem State.setV_pc (x : Reg) (b : Byte) : (s.setV x b).pc = s.pc := rfl
@[simp] theorem State.setV_i (x : Reg) (b : Byte) : (s.setV x b).i = s.i := rfl
@[simp] theorem State.setV_stack (x : Reg) (b : Byte) : (s.setV x b).stack = s.stack := rfl
@[simp] theorem State.setV_sp (x : Reg) (b : Byte) : (s.setV x b).sp = s.sp := rfl
@[simp] theorem State.setV_dt (x : Reg) (b : Byte) : (s.setV x b).dt = s.dt := rfl
@[simp] theorem State.setV_st (x : Reg) (b : Byte) : (s.setV x b).st = s.st := rfl
@[simp] theorem State.setV_fb (x : Reg) (b : Byte) : (s.setV x b).fb = s.fb := rfl
@[simp] theorem State.setV_status (x : Reg) (b : Byte) : (s.setV x b).status = s.status := rfl
@[simp] theorem State.setV_mem (x : Reg) (b : Byte) : (s.setV x b).mem = s.mem := rfl
@[simp] theorem State.setV_quirks (x : Reg) (b : Byte) : (s.setV x b).quirks = s.quirks := rfl
@[simp] theorem State.setV_last (x : Reg) (b : Byte) : (s.setV x b).last = s.last := rfl
@[simp] theorem State.setV_paused (x : Reg) (b : Byte) : (s.setV x b).paused = s.paused := rfl
@[simp] theorem State.setV_keys (x : Reg) (b : Byte) : (s.setV x b).keys = s.keys := rfl
@[simp] theorem State.setV_straps (x : Reg) (b : Byte) : (s.setV x b).straps = s.straps := rfl
@[simp] theorem State.setV_rndQueue (x : Reg) (b : Byte) : (s.setV x b).rndQueue = s.rndQueue := rfl
@[simp] theorem State.setV_draws (x : Reg) (b : Byte) : (s.setV x b).draws = s.draws := rfl
@[simp] theorem State.setV_quit (x : Reg) (b : Byte) : (s.setV x b).quit = s.quit := rfl
@[simp] theorem State.setV_cfg (x : Reg) (b : Byte) : (s.setV x b).cfg = s.cfg := rfl
@[simp] theorem State.setV_out (x : Reg) (b : Byte) : (s.setV x b).out = s.out := rfl
@[simp] theorem State.setV_agenda (x : Reg) (b : Byte) : (s.setV x b).agenda = s.agenda := rfl

/-! `State.setVFlag` -/

@[simp] theorem State.setVFlag_v (x : Reg) (r f : Byte) : (s.setVFlag x r f).v = (s.v.set x.toNat r x.isLt).set VF.toNat f VF.isLt := rfl
@[simp] theorem State.setVFlag_pc (x : Reg) (r f : Byte) : (s.setVFlag x r f).pc = s.pc := rfl
@[simp] theorem State.setVFlag_i (x : Reg) (r f : Byte) : (s.setVFlag x r f).i = s.i := rfl
@[simp] theorem State.setVFlag_stack (x : Reg) (r f : Byte) : (s.setVFlag x r f).stack = s.stack := rfl
@[simp] theorem State.setVFlag_sp (x : Reg) (r f : Byte) : (s.setVFlag x r f).sp = s.sp := rfl
@[simp] theorem State.setVFlag_dt (x : Reg) (r f : Byte) : (s.setVFlag x r f).dt = s.dt := rfl
@[simp] theorem State.setVFlag_st (x : Reg) (r f : Byte) : (s.setVFlag x r f).st = s.st := rfl
@[simp] theorem State.setVFlag_fb (x : Reg) (r f : Byte) : (s.setVFlag x r f).fb = s.fb := rfl
@[simp] theorem State.setVFlag_status (x : Reg) (r f : Byte) : (s.setVFlag x r f).status = s.status := rfl
@[simp] theorem State.setVFlag_mem (x : Reg) (r f : Byte) : (s.setVFlag x r f).mem = s.mem := rfl
@[simp] theorem State.setVFlag_quirks (x : Reg) (r f : Byte) : (s.setVFlag x r f).quirks = s.quirks := rfl
@[simp] theorem State.setVFlag_last (x : Reg) (r f : Byte) : (s.setVFlag x r f).last = s.last := rfl
@[simp] theorem State.setVFlag_paused (x : Reg) (r f : Byte) : (s.setVFlag x r f).paused = s.paused := rfl
@[simp] theorem State.setVFlag_keys (x : Reg) (r f : Byte) : (s.setVFlag x r f).keys = s.keys := rfl
@[simp] theorem State.setVFlag_straps (x : Reg) (r f : Byte) : (s.setVFlag x r f).straps = s.straps := rfl
@[simp] theorem State.setVFlag_rndQueue (x : Reg) (r f : Byte) : (s.setVFlag x r f).rndQueue = s.rndQueue := rfl
@[simp] theorem State.setVFlag_draws (x : Reg) (r f : Byte) : (s.setVFlag x r f).draws = s.draws := rfl
@[simp] theorem State.setVFlag_quit (x : Reg) (r f : Byte) : (s.setVFlag x r f).quit = s.quit := rfl
@[simp] theorem State.setVFlag_cfg (x : Reg) (r f : Byte) : (s.setVFlag x r f).cfg = s.cfg := rfl
@[simp] theorem State.setVFlag_out (x : Reg) (r f : Byte) : (s.setVFlag x r f).out = s.out := rfl
@[simp] theorem State.setVFlag_agenda (x : Reg) (r f : Byte) : (s.setVFlag x r f).agenda = s.agenda := rfl

/-! `State.setI` -/

@[simp] theorem State.setI_v (w : Word) : (s.setI w).v = s.v := rfl
@[simp] theorem State.setI_pc (w : Word) : (s.setI w).pc = s.pc := rfl
@[simp] theorem State.setI_i (w : Word) : (s.setI w).i = w := rfl
@[simp] theorem State.setI_stack (w : Word) : (s.setI w).stack = s.stack := rfl
@[simp] theorem State.setI_sp (w : Word) : (s.setI w).sp = s.sp := rfl
@[simp] theorem State.setI_dt (w : Word) : (s.setI w).dt = s.dt := rfl
@[simp] theorem State.setI_st (w : Word) : (s.setI w).st = s.st := rfl
@[simp] theorem State.setI_fb (w : Word) : (s.setI w).fb = s.fb := rfl
@[simp] theorem State.setI_status (w : Word) : (s.setI w).status = s.status := rfl
@[simp] theorem State.setI_mem (w : Word) : (s.setI w).mem = s.mem := rfl
@[simp] theorem State.setI_quirks (w : Word) : (s.setI w).quirks = s.quirks := rfl
@[simp] theorem State.setI_last (w : Word) : (s.setI w).last = s.last := rfl
@[simp] theorem State.setI_paused (w : Word) : (s.setI w).paused = s.paused := rfl
@[simp] theorem State.setI_keys (w : Word) : (s.setI w).keys = s.keys := rfl
@[simp] theorem State.setI_straps (w : Word) : (s.setI w).straps = s.straps := rfl
@[simp] theorem State.setI_rndQueue (w : Word) : (s.setI w).rndQueue = s.rndQueue := rfl
@[simp] theorem State.setI_draws (w : Word) : (s.setI w).draws = s.draws := rfl
@[simp] theorem State.setI_quit (w : Word) : (s.setI w).quit = s.quit := rfl
@[simp] theorem State.setI_cfg (w : Word) : (s.setI w).cfg = s.cfg := rfl
@[simp] theorem State.setI_out (w : Word) : (s.setI w).out = s.out := rfl
@[simp] theorem State.setI_agenda (w : Word) : (s.setI w).agenda = s.agenda := rfl

/-! `State.setPc` -/

@[simp] theorem State.setPc_v (w : Word) : (s.setPc w).v = s.v := rfl
@[simp] theorem State.setPc_pc (w : Word) : (s.setPc w).pc = w := rfl
@[simp] theorem State.setPc_i (w : Word) : (s.setPc w).i = s.i := rfl
@[simp] theorem State.setPc_stack (w : Word) : (s.setPc w).stack = s.stack := rfl
@[simp] theorem State.setPc_sp (w : Word) : (s.setPc w).sp = s.sp := rfl
@[simp] theorem State.setPc_dt (w : Word) : (s.setPc w).dt = s.dt := rfl
@[simp] theorem State.setPc_st (w : Word) : (s.setPc w).st = s.st := rfl
@[simp] theorem State.setPc_fb (w : Word) : (s.setPc w).fb = s.fb := rfl
@[simp] theorem State.setPc_status (w : Word) : (s.setPc w).status = s.status := rfl
@[simp] theorem State.setPc_mem (w : Word) : (s.setPc w).mem = s.mem := rfl
@[simp] theorem State.setPc_quirks (w : Word) : (s.setPc w).quirks = s.quirks := rfl
@[simp] theorem State.setPc_last (w : Word) : (s.setPc w).last = s.last := rfl
@[simp] theorem State.setPc_paused (w : Word) : (s.setPc w).paused = s.paused := rfl
@[simp] theorem State.setPc_keys (w : Word) : (s.setPc w).keys = s.keys := rfl
@[simp] theorem State.setPc_straps (w : Word) : (s.setPc w).straps = s.straps := rfl
@[simp] theorem State.setPc_rndQueue (w : Word) : (s.setPc w).rndQueue = s.rndQueue := rfl
@[simp] theorem State.setPc_draws (w : Word) : (s.setPc w).draws = s.draws := rfl
@[simp] theorem State.setPc_quit (w : Word) : (s.setPc w).quit = s.quit := rfl
@[simp] theorem State.setPc_cfg (w : Word) : (s.setPc w).cfg = s.cfg := rfl
@[simp] theorem State.setPc_out (w : Word) : (s.setPc w).out = s.out := rfl
@[simp] theorem State.setPc_agenda (w : Word) : (s.setPc w).agenda = s.agenda := rfl

/-! `State.advancePc` -/

@[simp] theorem State.advancePc_v : s.advancePc.v = s.v := rfl
@[simp] theorem State.advancePc_pc : s.advancePc.pc = s.pc + 2 := rfl
@[simp] theorem State.advancePc_i : s.advancePc.i = s.i := rfl
@[simp] theorem State.advancePc_stack : s.advancePc.stack = s.stack := rfl
@[simp] theorem State.advancePc_sp : s.advancePc.sp = s.sp := rfl
@[simp] theorem State.advancePc_dt : s.advancePc.dt = s.dt := rfl
@[simp] theorem State.advancePc_st : s.advancePc.st = s.st := rfl
@[simp] theorem State.advancePc_fb : s.advancePc.fb = s.fb := rfl
@[simp] theorem State.advancePc_status : s.advancePc.status = s.status := rfl
@[simp] theorem State.advancePc_mem : s.advancePc.mem = s.mem := rfl
@[simp] theorem State.advancePc_quirks : s.advancePc.quirks = s.quirks := rfl
@[simp] theorem State.advancePc_last : s.advancePc.last = s.last := rfl
@[simp] theorem State.advancePc_paused : s.advancePc.paused = s.paused := rfl
@[simp] theorem State.advancePc_keys : s.advancePc.keys = s.keys := rfl
@[simp] theorem State.advancePc_straps : s.advancePc.straps = s.straps := rfl
@[simp] theorem State.advancePc_rndQueue : s.advancePc.rndQueue = s.rndQueue := rfl
@[simp] theorem State.advancePc_draws : s.advancePc.draws = s.draws := rfl
@[simp] theorem State.advancePc_quit : s.advancePc.quit = s.quit := rfl
@[simp] theorem State.advancePc_cfg : s.advancePc.cfg = s.cfg := rfl
@[simp] theorem State.advancePc_out : s.advancePc.out = s.out := rfl
@[simp] theorem State.advancePc_agenda : s.advancePc.agenda = s.agenda := rfl

/-! `State.rewindPc` -/

@[simp] theorem State.rewindPc_v : s.rewindPc.v = s.v := rfl
@[simp] theorem State.rewindPc_pc : s.rewindPc.pc = s.pc - 2 := rfl
@[simp] theorem State.rewindPc_i : s.rewindPc.i = s.i := rfl
@[simp] theorem State.rewindPc_stack : s.rewindPc.stack = s.stack := rfl
@[simp] theorem State.rewindPc_sp : s.rewindPc.sp = s.sp := rfl
@[simp] theorem State.rewindPc_dt : s.rewindPc.dt = s.dt := rfl
@[simp] theorem State.rewindPc_st : s.rewindPc.st = s.st := rfl
@[simp] theorem State.rewindPc_fb : s.rewindPc.fb = s.fb := rfl
@[simp] theorem State.rewindPc_status : s.rewindPc.status = s.status := rfl
@[simp] theorem State.rewindPc_mem : s.rewindPc.mem = s.mem := rfl
@[simp] theorem State.rewindPc_quirks : s.rewindPc.quirks = s.quirks := rfl
@[simp] theorem State.rewindPc_last : s.rewindPc.last = s.last := rfl
@[simp] theorem State.rewindPc_paused : s.rewindPc.paused = s.paused := rfl
@[simp] theorem State.rewindPc_keys : s.rewindPc.keys = s.keys := rfl
@[simp] theorem State.rewindPc_straps : s.rewindPc.straps = s.straps := rfl
@[simp] theorem State.rewindPc_rndQueue : s.rewindPc.rndQueue = s.rndQueue := rfl
@[simp] theorem State.rewindPc_draws : s.rewindPc.draws = s.draws := rfl
@[simp] theorem State.rewindPc_quit : s.rewindPc.quit = s.quit := rfl
@[simp] theorem State.rewindPc_cfg : s.rewindPc.cfg = s.cfg := rfl
@[simp] theorem State.rewindPc_out : s.rewindPc.out = s.out := rfl
@[simp] theorem State.rewindPc_agenda : s.rewindPc.agenda = s.agenda := rfl

/-! `State.takeFatal` -/

@[simp] theorem State.takeFatal_v (c : Cause) : (s.takeFatal c).v = s.v := rfl
@[simp] theorem State.takeFatal_pc (c : Cause) : (s.takeFatal c).pc = s.pc := rfl
@[simp] theorem State.takeFatal_i (c : Cause) : (s.takeFatal c).i = s.i := rfl
@[simp] theorem State.takeFatal_stack (c : Cause) : (s.takeFatal c).stack = s.stack := rfl
@[simp] theorem State.takeFatal_sp (c : Cause) : (s.takeFatal c).sp = s.sp := rfl
@[simp] theorem State.takeFatal_dt (c : Cause) : (s.takeFatal c).dt = s.dt := rfl
@[simp] theorem State.takeFatal_st (c : Cause) : (s.takeFatal c).st = s.st := rfl
@[simp] theorem State.takeFatal_fb (c : Cause) : (s.takeFatal c).fb = s.fb := rfl
@[simp] theorem State.takeFatal_status (c : Cause) : (s.takeFatal c).status = .fatal c (s.pc - 2) := rfl
@[simp] theorem State.takeFatal_mem (c : Cause) : (s.takeFatal c).mem = s.mem := rfl
@[simp] theorem State.takeFatal_quirks (c : Cause) : (s.takeFatal c).quirks = s.quirks := rfl
@[simp] theorem State.takeFatal_last (c : Cause) : (s.takeFatal c).last = s.last := rfl
@[simp] theorem State.takeFatal_paused (c : Cause) : (s.takeFatal c).paused = s.paused := rfl
@[simp] theorem State.takeFatal_keys (c : Cause) : (s.takeFatal c).keys = s.keys := rfl
@[simp] theorem State.takeFatal_straps (c : Cause) : (s.takeFatal c).straps = s.straps := rfl
@[simp] theorem State.takeFatal_rndQueue (c : Cause) : (s.takeFatal c).rndQueue = s.rndQueue := rfl
@[simp] theorem State.takeFatal_draws (c : Cause) : (s.takeFatal c).draws = s.draws := rfl
@[simp] theorem State.takeFatal_quit (c : Cause) : (s.takeFatal c).quit = s.quit := rfl
@[simp] theorem State.takeFatal_cfg (c : Cause) : (s.takeFatal c).cfg = s.cfg := rfl
@[simp] theorem State.takeFatal_out (c : Cause) : (s.takeFatal c).out = s.out := rfl
@[simp] theorem State.takeFatal_agenda (c : Cause) : (s.takeFatal c).agenda = s.agenda := rfl

/-! `State.putByte` -/

@[simp] theorem State.putByte_v (a : Nat) (b : Byte) : (s.putByte a b).v = s.v := rfl
@[simp] theorem State.putByte_pc (a : Nat) (b : Byte) : (s.putByte a b).pc = s.pc := rfl
@[simp] theorem State.putByte_i (a : Nat) (b : Byte) : (s.putByte a b).i = s.i := rfl
@[simp] theorem State.putByte_stack (a : Nat) (b : Byte) : (s.putByte a b).stack = s.stack := rfl
@[simp] theorem State.putByte_sp (a : Nat) (b : Byte) : (s.putByte a b).sp = s.sp := rfl
@[simp] theorem State.putByte_dt (a : Nat) (b : Byte) : (s.putByte a b).dt = s.dt := rfl
@[simp] theorem State.putByte_st (a : Nat) (b : Byte) : (s.putByte a b).st = s.st := rfl
@[simp] theorem State.putByte_fb (a : Nat) (b : Byte) : (s.putByte a b).fb = s.fb := rfl
@[simp] theorem State.putByte_status (a : Nat) (b : Byte) : (s.putByte a b).status = s.status := rfl
@[simp] theorem State.putByte_mem (a : Nat) (b : Byte) : (s.putByte a b).mem = Memory.write s.cfg s.mem a b := rfl
@[simp] theorem State.putByte_quirks (a : Nat) (b : Byte) : (s.putByte a b).quirks = s.quirks := rfl
@[simp] theorem State.putByte_last (a : Nat) (b : Byte) : (s.putByte a b).last = s.last := rfl
@[simp] theorem State.putByte_paused (a : Nat) (b : Byte) : (s.putByte a b).paused = s.paused := rfl
@[simp] theorem State.putByte_keys (a : Nat) (b : Byte) : (s.putByte a b).keys = s.keys := rfl
@[simp] theorem State.putByte_straps (a : Nat) (b : Byte) : (s.putByte a b).straps = s.straps := rfl
@[simp] theorem State.putByte_rndQueue (a : Nat) (b : Byte) : (s.putByte a b).rndQueue = s.rndQueue := rfl
@[simp] theorem State.putByte_draws (a : Nat) (b : Byte) : (s.putByte a b).draws = s.draws := rfl
@[simp] theorem State.putByte_quit (a : Nat) (b : Byte) : (s.putByte a b).quit = s.quit := rfl
@[simp] theorem State.putByte_cfg (a : Nat) (b : Byte) : (s.putByte a b).cfg = s.cfg := rfl
@[simp] theorem State.putByte_out (a : Nat) (b : Byte) : (s.putByte a b).out = s.out := rfl
@[simp] theorem State.putByte_agenda (a : Nat) (b : Byte) : (s.putByte a b).agenda = s.agenda := rfl

/-! `State.putBytes` -/

@[simp] theorem State.putBytes_v (a : Nat) (bs : List Byte) : (s.putBytes a bs).v = s.v := rfl
@[simp] theorem State.putBytes_pc (a : Nat) (bs : List Byte) : (s.putBytes a bs).pc = s.pc := rfl
@[simp] theorem State.putBytes_i (a : Nat) (bs : List Byte) : (s.putBytes a bs).i = s.i := rfl
@[simp] theorem State.putBytes_stack (a : Nat) (bs : List Byte) : (s.putBytes a bs).stack = s.stack := rfl
@[simp] theorem State.putBytes_sp (a : Nat) (bs : List Byte) : (s.putBytes a bs).sp = s.sp := rfl
@[simp] theorem State.putBytes_dt (a : Nat) (bs : List Byte) : (s.putBytes a bs).dt = s.dt := rfl
@[simp] theorem State.putBytes_st (a : Nat) (bs : List Byte) : (s.putBytes a bs).st = s.st := rfl
@[simp] theorem State.putBytes_fb (a : Nat) (bs : List Byte) : (s.putBytes a bs).fb = s.fb := rfl
@[simp] theorem State.putBytes_status (a : Nat) (bs : List Byte) : (s.putBytes a bs).status = s.status := rfl
@[simp] theorem State.putBytes_mem (a : Nat) (bs : List Byte) : (s.putBytes a bs).mem = Memory.writeList s.cfg s.mem a bs := rfl
@[simp] theorem State.putBytes_quirks (a : Nat) (bs : List Byte) : (s.putBytes a bs).quirks = s.quirks := rfl
@[simp] theorem State.putBytes_last (a : Nat) (bs : List Byte) : (s.putBytes a bs).last = s.last := rfl
@[simp] theorem State.putBytes_paused (a : Nat) (bs : List Byte) : (s.putBytes a bs).paused = s.paused := rfl
@[simp] theorem State.putBytes_keys (a : Nat) (bs : List Byte) : (s.putBytes a bs).keys = s.keys := rfl
@[simp] theorem State.putBytes_straps (a : Nat) (bs : List Byte) : (s.putBytes a bs).straps = s.straps := rfl
@[simp] theorem State.putBytes_rndQueue (a : Nat) (bs : List Byte) : (s.putBytes a bs).rndQueue = s.rndQueue := rfl
@[simp] theorem State.putBytes_draws (a : Nat) (bs : List Byte) : (s.putBytes a bs).draws = s.draws := rfl
@[simp] theorem State.putBytes_quit (a : Nat) (bs : List Byte) : (s.putBytes a bs).quit = s.quit := rfl
@[simp] theorem State.putBytes_cfg (a : Nat) (bs : List Byte) : (s.putBytes a bs).cfg = s.cfg := rfl
@[simp] theorem State.putBytes_out (a : Nat) (bs : List Byte) : (s.putBytes a bs).out = s.out := rfl
@[simp] theorem State.putBytes_agenda (a : Nat) (bs : List Byte) : (s.putBytes a bs).agenda = s.agenda := rfl

/-! `State.setRegs` -/

@[simp] theorem State.setRegs_v (bs : List Byte) : (s.setRegs bs).v = setRange s.v 0 bs := rfl
@[simp] theorem State.setRegs_pc (bs : List Byte) : (s.setRegs bs).pc = s.pc := rfl
@[simp] theorem State.setRegs_i (bs : List Byte) : (s.setRegs bs).i = s.i := rfl
@[simp] theorem State.setRegs_stack (bs : List Byte) : (s.setRegs bs).stack = s.stack := rfl
@[simp] theorem State.setRegs_sp (bs : List Byte) : (s.setRegs bs).sp = s.sp := rfl
@[simp] theorem State.setRegs_dt (bs : List Byte) : (s.setRegs bs).dt = s.dt := rfl
@[simp] theorem State.setRegs_st (bs : List Byte) : (s.setRegs bs).st = s.st := rfl
@[simp] theorem State.setRegs_fb (bs : List Byte) : (s.setRegs bs).fb = s.fb := rfl
@[simp] theorem State.setRegs_status (bs : List Byte) : (s.setRegs bs).status = s.status := rfl
@[simp] theorem State.setRegs_mem (bs : List Byte) : (s.setRegs bs).mem = s.mem := rfl
@[simp] theorem State.setRegs_quirks (bs : List Byte) : (s.setRegs bs).quirks = s.quirks := rfl
@[simp] theorem State.setRegs_last (bs : List Byte) : (s.setRegs bs).last = s.last := rfl
@[simp] theorem State.setRegs_paused (bs : List Byte) : (s.setRegs bs).paused = s.paused := rfl
@[simp] theorem State.setRegs_keys (bs : List Byte) : (s.setRegs bs).keys = s.keys := rfl
@[simp] theorem State.setRegs_straps (bs : List Byte) : (s.setRegs bs).straps = s.straps := rfl
@[simp] theorem State.setRegs_rndQueue (bs : List Byte) : (s.setRegs bs).rndQueue = s.rndQueue := rfl
@[simp] theorem State.setRegs_draws (bs : List Byte) : (s.setRegs bs).draws = s.draws := rfl
@[simp] theorem State.setRegs_quit (bs : List Byte) : (s.setRegs bs).quit = s.quit := rfl
@[simp] theorem State.setRegs_cfg (bs : List Byte) : (s.setRegs bs).cfg = s.cfg := rfl
@[simp] theorem State.setRegs_out (bs : List Byte) : (s.setRegs bs).out = s.out := rfl
@[simp] theorem State.setRegs_agenda (bs : List Byte) : (s.setRegs bs).agenda = s.agenda := rfl

/-! `State.notify` -/

@[simp] theorem State.notify_v (o : Output) : (s.notify o).v = s.v := rfl
@[simp] theorem State.notify_pc (o : Output) : (s.notify o).pc = s.pc := rfl
@[simp] theorem State.notify_i (o : Output) : (s.notify o).i = s.i := rfl
@[simp] theorem State.notify_stack (o : Output) : (s.notify o).stack = s.stack := rfl
@[simp] theorem State.notify_sp (o : Output) : (s.notify o).sp = s.sp := rfl
@[simp] theorem State.notify_dt (o : Output) : (s.notify o).dt = s.dt := rfl
@[simp] theorem State.notify_st (o : Output) : (s.notify o).st = s.st := rfl
@[simp] theorem State.notify_fb (o : Output) : (s.notify o).fb = s.fb := rfl
@[simp] theorem State.notify_status (o : Output) : (s.notify o).status = s.status := rfl
@[simp] theorem State.notify_mem (o : Output) : (s.notify o).mem = s.mem := rfl
@[simp] theorem State.notify_quirks (o : Output) : (s.notify o).quirks = s.quirks := rfl
@[simp] theorem State.notify_last (o : Output) : (s.notify o).last = s.last := rfl
@[simp] theorem State.notify_paused (o : Output) : (s.notify o).paused = s.paused := rfl
@[simp] theorem State.notify_keys (o : Output) : (s.notify o).keys = s.keys := rfl
@[simp] theorem State.notify_straps (o : Output) : (s.notify o).straps = s.straps := rfl
@[simp] theorem State.notify_rndQueue (o : Output) : (s.notify o).rndQueue = s.rndQueue := rfl
@[simp] theorem State.notify_draws (o : Output) : (s.notify o).draws = s.draws := rfl
@[simp] theorem State.notify_quit (o : Output) : (s.notify o).quit = s.quit := rfl
@[simp] theorem State.notify_cfg (o : Output) : (s.notify o).cfg = s.cfg := rfl
@[simp] theorem State.notify_out (o : Output) : (s.notify o).out = o :: s.out := rfl
@[simp] theorem State.notify_agenda (o : Output) : (s.notify o).agenda = s.agenda := rfl

/-! `State.consumeRnd` -/

@[simp] theorem State.consumeRnd_v : s.consumeRnd.v = s.v := rfl
@[simp] theorem State.consumeRnd_pc : s.consumeRnd.pc = s.pc := rfl
@[simp] theorem State.consumeRnd_i : s.consumeRnd.i = s.i := rfl
@[simp] theorem State.consumeRnd_stack : s.consumeRnd.stack = s.stack := rfl
@[simp] theorem State.consumeRnd_sp : s.consumeRnd.sp = s.sp := rfl
@[simp] theorem State.consumeRnd_dt : s.consumeRnd.dt = s.dt := rfl
@[simp] theorem State.consumeRnd_st : s.consumeRnd.st = s.st := rfl
@[simp] theorem State.consumeRnd_fb : s.consumeRnd.fb = s.fb := rfl
@[simp] theorem State.consumeRnd_status : s.consumeRnd.status = s.status := rfl
@[simp] theorem State.consumeRnd_mem : s.consumeRnd.mem = s.mem := rfl
@[simp] theorem State.consumeRnd_quirks : s.consumeRnd.quirks = s.quirks := rfl
@[simp] theorem State.consumeRnd_last : s.consumeRnd.last = s.last := rfl
@[simp] theorem State.consumeRnd_paused : s.consumeRnd.paused = s.paused := rfl
@[simp] theorem State.consumeRnd_keys : s.consumeRnd.keys = s.keys := rfl
@[simp] theorem State.consumeRnd_straps : s.consumeRnd.straps = s.straps := rfl
@[simp] theorem State.consumeRnd_rndQueue : s.consumeRnd.rndQueue = s.rndQueue.tail := rfl
@[simp] theorem State.consumeRnd_draws : s.consumeRnd.draws = s.draws + 1 := rfl
@[simp] theorem State.consumeRnd_quit : s.consumeRnd.quit = s.quit := rfl
@[simp] theorem State.consumeRnd_cfg : s.consumeRnd.cfg = s.cfg := rfl
@[simp] theorem State.consumeRnd_out : s.consumeRnd.out = s.out := rfl
@[simp] theorem State.consumeRnd_agenda : s.consumeRnd.agenda = s.agenda := rfl

/-! `State.timerTick` -/

@[simp] theorem State.timerTick_v : s.timerTick.v = s.v := rfl
@[simp] theorem State.timerTick_pc : s.timerTick.pc = s.pc := rfl
@[simp] theorem State.timerTick_i : s.timerTick.i = s.i := rfl
@[simp] theorem State.timerTick_stack : s.timerTick.stack = s.stack := rfl
@[simp] theorem State.timerTick_sp : s.timerTick.sp = s.sp := rfl
@[simp] theorem State.timerTick_dt : s.timerTick.dt = if s.dt = 0 then 0 else s.dt - 1 := rfl
@[simp] theorem State.timerTick_st : s.timerTick.st = if s.st = 0 then 0 else s.st - 1 := rfl
@[simp] theorem State.timerTick_fb : s.timerTick.fb = s.fb := rfl
@[simp] theorem State.timerTick_status : s.timerTick.status = s.status := rfl
@[simp] theorem State.timerTick_mem : s.timerTick.mem = s.mem := rfl
@[simp] theorem State.timerTick_quirks : s.timerTick.quirks = s.quirks := rfl
@[simp] theorem State.timerTick_last : s.timerTick.last = s.last := rfl
@[simp] theorem State.timerTick_paused : s.timerTick.paused = s.paused := rfl
@[simp] theorem State.timerTick_keys : s.timerTick.keys = s.keys := rfl
@[simp] theorem State.timerTick_straps : s.timerTick.straps = s.straps := rfl
@[simp] theorem State.timerTick_rndQueue : s.timerTick.rndQueue = s.rndQueue := rfl
@[simp] theorem State.timerTick_draws : s.timerTick.draws = s.draws := rfl
@[simp] theorem State.timerTick_quit : s.timerTick.quit = s.quit := rfl
@[simp] theorem State.timerTick_cfg : s.timerTick.cfg = s.cfg := rfl
@[simp] theorem State.timerTick_out : s.timerTick.out = s.out := rfl
@[simp] theorem State.timerTick_agenda : s.timerTick.agenda = s.agenda := rfl

/-! `State.present` -/

@[simp] theorem State.present_v : s.present.v = s.v := rfl
@[simp] theorem State.present_pc : s.present.pc = s.pc := rfl
@[simp] theorem State.present_i : s.present.i = s.i := rfl
@[simp] theorem State.present_stack : s.present.stack = s.stack := rfl
@[simp] theorem State.present_sp : s.present.sp = s.sp := rfl
@[simp] theorem State.present_dt : s.present.dt = s.dt := rfl
@[simp] theorem State.present_st : s.present.st = s.st := rfl
@[simp] theorem State.present_fb : s.present.fb = s.fb := rfl
@[simp] theorem State.present_status : s.present.status = s.status := rfl
@[simp] theorem State.present_mem : s.present.mem = s.mem := rfl
@[simp] theorem State.present_quirks : s.present.quirks = s.quirks := rfl
@[simp] theorem State.present_last : s.present.last = s.last := rfl
@[simp] theorem State.present_paused : s.present.paused = s.paused := rfl
@[simp] theorem State.present_keys : s.present.keys = s.keys := rfl
@[simp] theorem State.present_straps : s.present.straps = s.straps := rfl
@[simp] theorem State.present_rndQueue : s.present.rndQueue = s.rndQueue := rfl
@[simp] theorem State.present_draws : s.present.draws = s.draws := rfl
@[simp] theorem State.present_quit : s.present.quit = s.quit := rfl
@[simp] theorem State.present_cfg : s.present.cfg = s.cfg := rfl
@[simp] theorem State.present_out : s.present.out = .presented s.fb :: s.out := rfl
@[simp] theorem State.present_agenda : s.present.agenda = s.agenda := rfl

/-! `State.skipIf` -/

@[simp] theorem State.skipIf_v (c : Bool) : (s.skipIf c).v = s.v := by
  unfold State.skipIf; split <;> rfl
@[simp] theorem State.skipIf_pc (c : Bool) : (s.skipIf c).pc = if c then s.pc + 2 else s.pc := by
  unfold State.skipIf; split <;> rfl
@[simp] theorem State.skipIf_i (c : Bool) : (s.skipIf c).i = s.i := by
  unfold State.skipIf; split <;> rfl
@[simp] theorem State.skipIf_stack (c : Bool) : (s.skipIf c).stack = s.stack := by
  unfold State.skipIf; split <;> rfl
@[simp] theorem State.skipIf_sp (c : Bool) : (s.skipIf c).sp = s.sp := by
  unfold State.skipIf; split <;> rfl
@[simp] theorem State.skipIf_dt (c : Bool) : (s.skipIf c).dt = s.dt := by
  unfold State.skipIf; split <;> rfl
@[simp] theorem State.skipIf_st (c : Bool) : (s.skipIf c).st = s.st := by
  unfold State.skipIf; split <;> rfl
@[simp] theorem State.skipIf_fb (c : Bool) : (s.skipIf c).fb = s.fb := by
  unfold State.skipIf; split <;> rfl
@[simp] theorem State.skipIf_status (c : Bool) : (s.skipIf c).status = s.status := by
  unfold State.skipIf; split <;> rfl
@[simp] theorem State.skipIf_mem (c : Bool) : (s.skipIf c).mem = s.mem := by
  unfold State.skipIf; split <;> rfl
@[simp] theorem State.skipIf_quirks (c : Bool) : (s.skipIf c).quirks = s.quirks := by
  unfold State.skipIf; split <;> rfl
@[simp] theorem State.skipIf_last (c : Bool) : (s.skipIf c).last = s.last := by
  unfold State.skipIf; split <;> rfl
@[simp] theorem State.skipIf_paused (c : Bool) : (s.skipIf c).paused = s.paused := by
  unfold State.skipIf; split <;> rfl
@[simp] theorem State.skipIf_keys (c : Bool) : (s.skipIf c).keys = s.keys := by
  unfold State.skipIf; split <;> rfl
@[simp] theorem State.skipIf_straps (c : Bool) : (s.skipIf c).straps = s.straps := by
  unfold State.skipIf; split <;> rfl
@[simp] theorem State.skipIf_rndQueue (c : Bool) : (s.skipIf c).rndQueue = s.rndQueue := by
  unfold State.skipIf; split <;> rfl
@[simp] theorem State.skipIf_draws (c : Bool) : (s.skipIf c).draws = s.draws := by
  unfold State.skipIf; split <;> rfl
@[simp] theorem State.skipIf_quit (c : Bool) : (s.skipIf c).quit = s.quit := by
  unfold State.skipIf; split <;> rfl
@[simp] theorem State.skipIf_cfg (c : Bool) : (s.skipIf c).cfg = s.cfg := by
  unfold State.skipIf; split <;> rfl
@[simp] theorem State.skipIf_out (c : Bool) : (s.skipIf c).out = s.out := by
  unfold State.skipIf; split <;> rfl
@[simp] theorem State.skipIf_agenda (c : Bool) : (s.skipIf c).agenda = s.agenda := by
  unfold State.skipIf; split <;> rfl

/-! `State.advanceI` -/

@[simp] theorem State.advanceI_v (x : Reg) : (s.advanceI x).v = s.v := by
  unfold State.advanceI; split <;> rfl
@[simp] theorem State.advanceI_pc (x : Reg) : (s.advanceI x).pc = s.pc := by
  unfold State.advanceI; split <;> rfl
@[simp] theorem State.advanceI_i (x : Reg) : (s.advanceI x).i = if s.quirks.loadStore then BitVec.ofNat 16 (s.i.toNat + x.toNat + 1) else s.i := by
  unfold State.advanceI; split <;> rfl
@[simp] theorem State.advanceI_stack (x : Reg) : (s.advanceI x).stack = s.stack := by
  unfold State.advanceI; split <;> rfl
@[simp] theorem State.advanceI_sp (x : Reg) : (s.advanceI x).sp = s.sp := by
  unfold State.advanceI; split <;> rfl
@[simp] theorem State.advanceI_dt (x : Reg) : (s.advanceI x).dt = s.dt := by
  unfold State.advanceI; split <;> rfl
@[simp] theorem State.advanceI_st (x : Reg) : (s.advanceI x).st = s.st := by
  unfold State.advanceI; split <;> rfl
@[simp] theorem State.advanceI_fb (x : Reg) : (s.advanceI x).fb = s.fb := by
  unfold State.advanceI; split <;> rfl
@[simp] theorem State.advanceI_status (x : Reg) : (s.advanceI x).status = s.status := by
  unfold State.advanceI; split <;> rfl
@[simp] theorem State.advanceI_mem (x : Reg) : (s.advanceI x).mem = s.mem := by
  unfold State.advanceI; split <;> rfl
@[simp] theorem State.advanceI_quirks (x : Reg) : (s.advanceI x).quirks = s.quirks := by
  unfold State.advanceI; split <;> rfl
@[simp] theorem State.advanceI_last (x : Reg) : (s.advanceI x).last = s.last := by
  unfold State.advanceI; split <;> rfl
@[simp] theorem State.advanceI_paused (x : Reg) : (s.advanceI x).paused = s.paused := by
  unfold State.advanceI; split <;> rfl
@[simp] theorem State.advanceI_keys (x : Reg) : (s.advanceI x).keys = s.keys := by
  unfold State.advanceI; split <;> rfl
@[simp] theorem State.advanceI_straps (x : Reg) : (s.advanceI x).straps = s.straps := by
  unfold State.advanceI; split <;> rfl
@[simp] theorem State.advanceI_rndQueue (x : Reg) : (s.advanceI x).rndQueue = s.rndQueue := by
  unfold State.advanceI; split <;> rfl
@[simp] theorem State.advanceI_draws (x : Reg) : (s.advanceI x).draws = s.draws := by
  unfold State.advanceI; split <;> rfl
@[simp] theorem State.advanceI_quit (x : Reg) : (s.advanceI x).quit = s.quit := by
  unfold State.advanceI; split <;> rfl
@[simp] theorem State.advanceI_cfg (x : Reg) : (s.advanceI x).cfg = s.cfg := by
  unfold State.advanceI; split <;> rfl
@[simp] theorem State.advanceI_out (x : Reg) : (s.advanceI x).out = s.out := by
  unfold State.advanceI; split <;> rfl
@[simp] theorem State.advanceI_agenda (x : Reg) : (s.advanceI x).agenda = s.agenda := by
  unfold State.advanceI; split <;> rfl

end Sys2Proof.Machine
end

