-- ==== Sys2Proof/Laws/Ops.lean ====
section
/-! SUPPORT. What each shared operation can do, said once: registers, memory bytes, accesses, the call
stack, key selection, random bytes, sprite rows. -/

namespace Sys2Proof.Machine

variable (s : State)

/-! Registers -/

@[simp] theorem State.getV_setV (x : Reg) (b : Byte) (k : Reg) :
    (s.setV x b).getV k = if k = x then b else s.getV k := by
  unfold State.getV State.setV
  simp only [Vector.getElem_set]
  by_cases h : k = x
  · simp [h]
  · rw [if_neg h, if_neg (fun e => h (BitVec.eq_of_toNat_eq e.symm))]

@[simp] theorem State.getV_setVFlag (x : Reg) (r f : Byte) (k : Reg) :
    (s.setVFlag x r f).getV k = if k = VF then f else if k = x then r else s.getV k := by
  simp [State.setVFlag]

/-- Reading a register depends on the register file alone. -/
theorem State.getV_congr {t : State} (h : t.v = s.v) (k : Reg) : t.getV k = s.getV k := by
  simp [State.getV, h]

theorem getElem_setRange (v : Vector Byte 16) (k : Nat) (bs : List Byte) (hk : k + bs.length ≤ 16)
    (j : Nat) (hj : j < 16) :
    (setRange v k bs)[j] = if k ≤ j ∧ j < k + bs.length then bs.getD (j - k) 0 else v[j] := by
  induction bs generalizing v k with
  | nil => rw [if_neg (by simp)]; rfl
  | cons b r ih =>
    simp only [List.length_cons] at hk ⊢
    simp only [setRange]
    rw [ih _ (k + 1) (by omega)]
    have hm : (BitVec.ofNat 4 k).toNat = k := by simp; omega
    by_cases h1 : k + 1 ≤ j ∧ j < k + 1 + r.length
    · have : j - k = (j - (k + 1)) + 1 := by omega
      rw [if_pos h1, if_pos (by omega), this]; simp
    · rw [if_neg h1, Vector.getElem_set]
      by_cases h2 : k = j
      · subst h2; simp [hm]
      · rw [if_neg (by omega), if_neg (by omega)]

/-- The registers after bytes have been written to `V[0]` on. -/
theorem State.getV_setRegs (bs : List Byte) (h : bs.length ≤ 16) (k : Reg) :
    (s.setRegs bs).getV k = if k.toNat < bs.length then bs.getD k.toNat 0 else s.getV k := by
  unfold State.getV
  simp only [State.setRegs_v]
  rw [getElem_setRange _ _ _ (by omega)]
  simp

@[simp] theorem State.regsUpTo_length (x : Reg) : (s.regsUpTo x).length = x.toNat + 1 := by
  simp [State.regsUpTo]

theorem State.regsUpTo_getD (x : Reg) {k : Nat} (h : k ≤ x.toNat) :
    (s.regsUpTo x).getD k 0 = s.getV (BitVec.ofNat 4 k) := by
  simp [State.regsUpTo, List.getD_eq_getElem?_getD, List.getElem?_range (Nat.lt_succ_of_le h)]

/-! Memory -/

@[simp] theorem State.byteAt_putByte (a : Nat) (b : Byte) (a' : Nat) :
    (s.putByte a b).byteAt a' = if a' = a then b else s.byteAt a' := by
  simp [State.byteAt]

theorem State.byteAt_putBytes (a : Nat) (bs : List Byte) (a' : Nat) :
    (s.putBytes a bs).byteAt a' =
      if a ≤ a' ∧ a' < a + bs.length then bs.getD (a' - a) 0 else s.byteAt a' := by
  simp [State.byteAt, Memory.read_writeList]

/-- Reading a byte depends on the parameters and the memory alone. -/
theorem State.byteAt_congr {t : State} (hc : t.cfg = s.cfg) (hm : t.mem = s.mem) (a : Nat) :
    t.byteAt a = s.byteAt a := by
  simp [State.byteAt, hc, hm]

@[simp] theorem State.bytesAt_length (a n : Nat) : (s.bytesAt a n).length = n := by simp [State.bytesAt]

theorem State.bytesAt_getD (a : Nat) {n k : Nat} (h : k < n) :
    (s.bytesAt a n).getD k 0 = s.byteAt (a + k) := by
  simp [State.bytesAt, List.getD_eq_getElem?_getD, List.getElem?_range h]

theorem inRange_iff (base n : Nat) : inRange base n = true ↔ n = 0 ∨ base + n ≤ 4096 := by
  unfold inRange
  rw [Bool.or_eq_true, beq_iff_eq, decide_eq_true_iff]
  omega

/-- An access answers a next state only when it is in range, and then the given one. -/
theorem accessing_next {base n : Nat} {t u : State} :
    accessing base n t = .next u ↔ inRange base n = true ∧ u = t := by
  unfold accessing
  split
  · next h => exact ⟨fun e => by cases e; exact ⟨h, rfl⟩, fun e => by rw [e.2]⟩
  · next h => exact ⟨nofun, fun e => absurd e.1 h⟩

theorem accessing_inRange {base n : Nat} (t : State) (h : inRange base n = true) :
    accessing base n t = .next t := by simp [accessing, h]

theorem accessing_outOfRange {base n : Nat} (t : State) (h : inRange base n = false) :
    accessing base n t = .refused (.outOfRange (base + n - 1)) := by simp [accessing, h]

/-- An access never faults. -/
theorem accessing_ne_fault {base n : Nat} {t : State} {f : Fault} : accessing base n t ≠ .fault f := by
  unfold accessing
  split <;> simp

theorem State.memRead2_some (a : Nat) (h : a ≤ 0xFFE) :
    s.memRead2 a = some (composeWord (s.byteAt a) (s.byteAt (a + 1))) := by
  have : inRange a 2 = true := (inRange_iff a 2).mpr (by omega)
  simp [State.memRead2, this]

theorem State.memRead2_none (a : Nat) (h : 0xFFE < a) : s.memRead2 a = none := by
  have : ¬ inRange a 2 = true := fun c => by have := (inRange_iff a 2).mp c; omega
  simp [State.memRead2, this]

/-! Call stack -/

/-- A push succeeds exactly when the stack is not full; it writes the entry at SP and counts it. -/
theorem State.push_eq_some {w : Word} {t : State} :
    s.push w = some t ↔ s.sp ≠ s.cfg.stackCap.size ∧
      t = { s with stack := s.stack.set s.sp w, sp := s.sp + 1 } := by
  unfold State.push
  split
  · next h => exact ⟨nofun, fun e => absurd h e.1⟩
  · next h => exact ⟨fun e => by cases e; exact ⟨h, rfl⟩, fun e => by rw [e.2]⟩

theorem State.push_eq_none {w : Word} : s.push w = none ↔ s.sp = s.cfg.stackCap.size := by
  unfold State.push
  split <;> simp_all

/-- A pop succeeds exactly when the stack is not empty; it answers the top entry and uncounts it. -/
theorem State.pop_eq_some {w : Word} {t : State} :
    s.pop = some (w, t) ↔ s.sp ≠ 0 ∧ w = s.stackEntry (s.sp - 1) ∧ t = { s with sp := s.sp - 1 } := by
  unfold State.pop
  split
  · next h => exact ⟨nofun, fun e => absurd h e.1⟩
  · next h => exact ⟨fun e => by cases e; exact ⟨h, rfl, rfl⟩, fun e => by rw [e.2.1, e.2.2]⟩

theorem State.pop_eq_none : s.pop = none ↔ s.sp = 0 := by
  unfold State.pop
  split <;> simp_all

/-- A stack entry after one has been written within the array. -/
theorem stackEntry_set (st : List Word) (k : Nat) (w : Word) (h : k < st.length) (j : Nat) :
    (st.set k w).getD j 0 = if j = k then w else st.getD j 0 := by
  by_cases e : j = k
  · subst e; simp [List.getD_eq_getElem?_getD, h]
  · simp [List.getD_eq_getElem?_getD, List.getElem?_set_ne (Ne.symm e), e]

/-- CALL on a stack with room. -/
theorem execCall_of_room {nnn : Addr12} (h : s.sp ≠ s.cfg.stackCap.size) :
    execCall nnn s =
      .next { s with stack := s.stack.set s.sp s.pc, sp := s.sp + 1, pc := zext16 nnn } := by
  simp only [execCall, (State.push_eq_some s).mpr ⟨h, rfl⟩]; rfl

/-- CALL on a full stack. -/
theorem execCall_of_full {nnn : Addr12} (h : s.sp = s.cfg.stackCap.size) :
    execCall nnn s = .next (s.takeFatal .stackOverflow) := by
  simp only [execCall, (State.push_eq_none s).mpr h]

/-- RET on a stack with entries. -/
theorem execRet_of_entries (h : s.sp ≠ 0) :
    execRet s = .next { s with sp := s.sp - 1, pc := s.stackEntry (s.sp - 1) } := by
  simp only [execRet, (State.pop_eq_some s).mpr ⟨h, rfl, rfl⟩]; rfl

/-- RET on an empty stack. -/
theorem execRet_of_empty (h : s.sp = 0) : execRet s = .next (s.takeFatal .stackUnderflow) := by
  simp only [execRet, (State.pop_eq_none s).mpr h]

/-! Keys and random bytes -/

/-- No key is found exactly when none is down. -/
theorem lowestKey_eq_none {keys : BitVec 16} : lowestKey keys = none ↔ keys = 0 := by
  unfold lowestKey
  rw [List.find?_eq_none]
  constructor
  · intro h
    apply BitVec.eq_of_getLsbD_eq
    intro k hk
    have := h k (List.mem_range.mpr hk)
    simpa using this
  · rintro rfl k _; simp

/-- The lowest key found is down and no lower one is. -/
theorem lowestKey_spec {keys : BitVec 16} {k : Nat} (h : lowestKey keys = some k) :
    k < 16 ∧ keys.getLsbD k = true ∧ ∀ j < k, keys.getLsbD j = false := by
  unfold lowestKey at h
  obtain ⟨hk, i, hi, he, hj⟩ := List.find?_eq_some_iff_getElem.mp h
  simp only [List.length_range] at hi
  simp only [List.getElem_range] at he hj
  subst he
  exact ⟨hi, hk, fun j hlt => by simpa using hj j hlt⟩

/-- FX0A finds no key exactly when none is down. -/
theorem selectKey_eq_none {c : Config} {keys : BitVec 16} : selectKey c keys = none ↔ keys = 0 := by
  rw [← lowestKey_eq_none]
  unfold selectKey
  split
  · simp_all
  · next h => rw [h]; split <;> (try split) <;> simp

/-- The selected key is down, whatever `KeySelect` is. -/
theorem selectKey_pressed {c : Config} {keys : BitVec 16} {k : Reg} (h : selectKey c keys = some k) :
    keys.getLsbD k.toNat = true := by
  unfold selectKey at h
  split at h
  · simp at h
  · next low hl =>
    obtain ⟨h16, hp, _⟩ := lowestKey_spec hl
    have hm : (BitVec.ofNat 4 low).toNat = low := by simp; omega
    split at h
    · cases h; rwa [hm]
    · split at h
      · next hp' => cases h; exact hp'
      · cases h; rwa [hm]

/-- Under the default `KeySelect` no lower key is down. -/
theorem selectKey_lowest {c : Config} {keys : BitVec 16} {k : Reg} (hc : c.keySelect = .lowest)
    (h : selectKey c keys = some k) : ∀ j < k.toNat, keys.getLsbD j = false := by
  unfold selectKey at h
  split at h
  · simp at h
  · next low hl =>
    obtain ⟨h16, _, hj⟩ := lowestKey_spec hl
    have hm : (BitVec.ofNat 4 low).toNat = low := by simp; omega
    simp only [hc] at h
    cases h
    rwa [hm]

/-- The random byte of a step is the next injected one, or the free value of its number. -/
theorem State.rndByte_cons {b : Byte} {r : List Byte} (h : s.rndQueue = b :: r) : s.rndByte = b := by
  simp [State.rndByte, h]

theorem State.rndByte_nil (h : s.rndQueue = []) : s.rndByte = Config.freeRnd s.draws := by
  simp [State.rndByte, h]

/-! The advance of I by FX55 and FX65 -/

@[simp] theorem State.getV_advanceI (x k : Reg) : (s.advanceI x).getV k = s.getV k :=
  State.getV_congr s (by simp) k

@[simp] theorem State.byteAt_advanceI (x : Reg) (a : Nat) : (s.advanceI x).byteAt a = s.byteAt a :=
  State.byteAt_congr s (by simp) (by simp) a

/-- I after the advance, when the access it follows was in range. -/
theorem State.toNat_i_advanceI (x : Reg) (h : s.i.toNat + x.toNat ≤ 0xFFF) :
    (s.advanceI x).i.toNat = s.i.toNat + if s.quirks.loadStore then x.toNat + 1 else 0 := by
  unfold State.advanceI State.base
  cases s.quirks.loadStore with
  | false => rfl
  | true => simp only [if_true, State.setI_i, BitVec.toNat_ofNat]; omega

/-- The advance of I changes nothing but I. -/
theorem State.advanceI_frame (x : Reg) : s.advanceI x = { s with i := (s.advanceI x).i } := by
  unfold State.advanceI
  split <;> rfl

/-- Reading a register of a state that differs in its outputs only. -/
@[simp] theorem State.getV_notify (o : Output) (k : Reg) : (s.notify o).getV k = s.getV k := rfl

@[simp] theorem State.byteAt_notify (o : Output) (a : Nat) : (s.notify o).byteAt a = s.byteAt a := rfl

/-! Outputs (60_exceptions.md R180, R183) -/

theorem State.fatalOut_iff : s.fatalOut = true ↔ ∃ cause a, s.status = .fatal cause a := by
  unfold State.fatalOut
  cases s.status <;> simp

theorem State.fatalInfo_of_fatal {cause : Cause} {a : Word} (h : s.status = .fatal cause a) :
    s.fatalInfo = (cause.code, a) := by simp [State.fatalInfo, h]

theorem State.sndActive_iff : s.sndActive = true ↔ s.st ≠ 0 := by simp [State.sndActive]

/-- The digits of FX33, the one of the highest place first (42_index_memory.md R123). -/
theorem bcdDigits_toNat (b : Byte) {k : Nat} (h : k < 3) :
    ((bcdDigits b).getD k 0).toNat = b.toNat / 10 ^ (2 - k) % 10 := by
  have hb := b.isLt
  match k with
  | 0 => simp [bcdDigits]; omega
  | 1 => simp [bcdDigits]; omega
  | 2 => simp [bcdDigits]; omega

end Sys2Proof.Machine
end

