-- ==== Sys2Proof/Laws/PerInstr.lean ====
section
/-! SUPPORT. Laws made per instruction. Family RowMatch: the word of a well-formed instruction matches the
mask and value of its own row of the opcode map (30_encoding.md R65); the catch-all has no row. -/

namespace Sys2Proof.Laws.RowMatch

/-- The encoded word selects the instruction's own row. -/
def Statement (i : Instr) : Prop :=
  i.wf = true → i.row ≤ 35 → ∃ r ∈ opcodeMap, r.number = i.row ∧ encode i &&& r.mask = r.value

theorem sys (nnn : Addr12) : Statement (.sys nnn) :=
  fun _ _ => ⟨⟨1, 0xF000, 0x0000⟩, by simp [opcodeMap], rfl, by simp [encode]; rfl⟩
theorem cls : Statement .cls :=
  fun _ _ => ⟨⟨2, 0xFFFF, 0x00E0⟩, by simp [opcodeMap], rfl, rfl⟩
theorem ret : Statement .ret :=
  fun _ _ => ⟨⟨3, 0xFFFF, 0x00EE⟩, by simp [opcodeMap], rfl, rfl⟩
theorem jp (nnn : Addr12) : Statement (.jp nnn) :=
  fun _ _ => ⟨⟨4, 0xF000, 0x1000⟩, by simp [opcodeMap], rfl, by simp [encode]; rfl⟩
theorem call (nnn : Addr12) : Statement (.call nnn) :=
  fun _ _ => ⟨⟨5, 0xF000, 0x2000⟩, by simp [opcodeMap], rfl, by simp [encode]; rfl⟩
theorem seImm (x : Reg) (nn : Byte) : Statement (.seImm x nn) :=
  fun _ _ => ⟨⟨6, 0xF000, 0x3000⟩, by simp [opcodeMap], rfl, by simp [encode]; rfl⟩
theorem sneImm (x : Reg) (nn : Byte) : Statement (.sneImm x nn) :=
  fun _ _ => ⟨⟨7, 0xF000, 0x4000⟩, by simp [opcodeMap], rfl, by simp [encode]; rfl⟩
theorem seReg (x : Reg) (y : Reg) (n : Nibble) : Statement (.seReg x y n) :=
  fun _ _ => ⟨⟨8, 0xF000, 0x5000⟩, by simp [opcodeMap], rfl, by simp [encode]; rfl⟩
theorem ldImm (x : Reg) (nn : Byte) : Statement (.ldImm x nn) :=
  fun _ _ => ⟨⟨9, 0xF000, 0x6000⟩, by simp [opcodeMap], rfl, by simp [encode]; rfl⟩
theorem addImm (x : Reg) (nn : Byte) : Statement (.addImm x nn) :=
  fun _ _ => ⟨⟨10, 0xF000, 0x7000⟩, by simp [opcodeMap], rfl, by simp [encode]; rfl⟩
theorem ldReg (x : Reg) (y : Reg) : Statement (.ldReg x y) :=
  fun _ _ => ⟨⟨11, 0xF00F, 0x8000⟩, by simp [opcodeMap], rfl, by simp [encode]; rfl⟩
theorem orReg (x : Reg) (y : Reg) : Statement (.orReg x y) :=
  fun _ _ => ⟨⟨12, 0xF00F, 0x8001⟩, by simp [opcodeMap], rfl, by simp [encode]; rfl⟩
theorem andReg (x : Reg) (y : Reg) : Statement (.andReg x y) :=
  fun _ _ => ⟨⟨13, 0xF00F, 0x8002⟩, by simp [opcodeMap], rfl, by simp [encode]; rfl⟩
theorem xorReg (x : Reg) (y : Reg) : Statement (.xorReg x y) :=
  fun _ _ => ⟨⟨14, 0xF00F, 0x8003⟩, by simp [opcodeMap], rfl, by simp [encode]; rfl⟩
theorem addReg (x : Reg) (y : Reg) : Statement (.addReg x y) :=
  fun _ _ => ⟨⟨15, 0xF00F, 0x8004⟩, by simp [opcodeMap], rfl, by simp [encode]; rfl⟩
theorem subReg (x : Reg) (y : Reg) : Statement (.subReg x y) :=
  fun _ _ => ⟨⟨16, 0xF00F, 0x8005⟩, by simp [opcodeMap], rfl, by simp [encode]; rfl⟩
theorem shrReg (x : Reg) (y : Reg) : Statement (.shrReg x y) :=
  fun _ _ => ⟨⟨17, 0xF00F, 0x8006⟩, by simp [opcodeMap], rfl, by simp [encode]; rfl⟩
theorem subnReg (x : Reg) (y : Reg) : Statement (.subnReg x y) :=
  fun _ _ => ⟨⟨18, 0xF00F, 0x8007⟩, by simp [opcodeMap], rfl, by simp [encode]; rfl⟩
theorem shlReg (x : Reg) (y : Reg) : Statement (.shlReg x y) :=
  fun _ _ => ⟨⟨19, 0xF00F, 0x800E⟩, by simp [opcodeMap], rfl, by simp [encode]; rfl⟩
theorem sneReg (x : Reg) (y : Reg) (n : Nibble) : Statement (.sneReg x y n) :=
  fun _ _ => ⟨⟨20, 0xF000, 0x9000⟩, by simp [opcodeMap], rfl, by simp [encode]; rfl⟩
theorem ldI (nnn : Addr12) : Statement (.ldI nnn) :=
  fun _ _ => ⟨⟨21, 0xF000, 0xA000⟩, by simp [opcodeMap], rfl, by simp [encode]; rfl⟩
theorem jpV0 (nnn : Addr12) : Statement (.jpV0 nnn) :=
  fun _ _ => ⟨⟨22, 0xF000, 0xB000⟩, by simp [opcodeMap], rfl, by simp [encode]; rfl⟩
theorem rnd (x : Reg) (nn : Byte) : Statement (.rnd x nn) :=
  fun _ _ => ⟨⟨23, 0xF000, 0xC000⟩, by simp [opcodeMap], rfl, by simp [encode]; rfl⟩
theorem drw (x : Reg) (y : Reg) (n : Nibble) : Statement (.drw x y n) :=
  fun _ _ => ⟨⟨24, 0xF000, 0xD000⟩, by simp [opcodeMap], rfl, by simp [encode]; rfl⟩
theorem skp (x : Reg) : Statement (.skp x) :=
  fun _ _ => ⟨⟨25, 0xF0FF, 0xE09E⟩, by simp [opcodeMap], rfl, by simp [encode]; rfl⟩
theorem sknp (x : Reg) : Statement (.sknp x) :=
  fun _ _ => ⟨⟨26, 0xF0FF, 0xE0A1⟩, by simp [opcodeMap], rfl, by simp [encode]; rfl⟩
theorem ldVxDT (x : Reg) : Statement (.ldVxDT x) :=
  fun _ _ => ⟨⟨27, 0xF0FF, 0xF007⟩, by simp [opcodeMap], rfl, by simp [encode]; rfl⟩
theorem ldVxK (x : Reg) : Statement (.ldVxK x) :=
  fun _ _ => ⟨⟨28, 0xF0FF, 0xF00A⟩, by simp [opcodeMap], rfl, by simp [encode]; rfl⟩
theorem ldDTVx (x : Reg) : Statement (.ldDTVx x) :=
  fun _ _ => ⟨⟨29, 0xF0FF, 0xF015⟩, by simp [opcodeMap], rfl, by simp [encode]; rfl⟩
theorem ldSTVx (x : Reg) : Statement (.ldSTVx x) :=
  fun _ _ => ⟨⟨30, 0xF0FF, 0xF018⟩, by simp [opcodeMap], rfl, by simp [encode]; rfl⟩
theorem addI (x : Reg) : Statement (.addI x) :=
  fun _ _ => ⟨⟨31, 0xF0FF, 0xF01E⟩, by simp [opcodeMap], rfl, by simp [encode]; rfl⟩
theorem ldF (x : Reg) : Statement (.ldF x) :=
  fun _ _ => ⟨⟨32, 0xF0FF, 0xF029⟩, by simp [opcodeMap], rfl, by simp [encode]; rfl⟩
theorem ldB (x : Reg) : Statement (.ldB x) :=
  fun _ _ => ⟨⟨33, 0xF0FF, 0xF033⟩, by simp [opcodeMap], rfl, by simp [encode]; rfl⟩
theorem store (x : Reg) : Statement (.store x) :=
  fun _ _ => ⟨⟨34, 0xF0FF, 0xF055⟩, by simp [opcodeMap], rfl, by simp [encode]; rfl⟩
theorem load (x : Reg) : Statement (.load x) :=
  fun _ _ => ⟨⟨35, 0xF0FF, 0xF065⟩, by simp [opcodeMap], rfl, by simp [encode]; rfl⟩
theorem unrecognised (w : Word) : Statement (.unrecognised w) := fun _ h => absurd h (by simp [Instr.row])

end Sys2Proof.Laws.RowMatch
end

