-- ==== Sys2Proof/Laws/Step.lean ====
section
/-! SUPPORT. What one step can do, said once: the CPU step, the queued events, the idle machine. -/

namespace Sys2Proof.Machine

variable {s t : State}

theorem State.live_iff : s.live = true ↔ s.status = .running ∧ s.quit = false := by
  simp [State.live]

/-- A CPU step whose fetch succeeds executes the decoded word with PC advanced (30_encoding.md R70). -/
theorem cpuStep_of_fetch {op : Word} (h : s.fetch = some op) :
    cpuStep s = exec (decodeWord op) s.advancePc := by simp [cpuStep, h]

theorem cpuStep_of_fetch_none (h : s.fetch = none) : cpuStep s = .refused (.outOfRange (s.pc.toNat + 1)) := by
  simp [cpuStep, h]

/-- With nothing queued and nothing in the way, a step is a CPU step. -/
theorem step_of_cpuNext (h : s.CpuNext) : step s = cpuStep s := by
  obtain ⟨ha, hl, hp⟩ := h
  have hr := (State.live_iff.mp hl).1
  simp [step, nextEvent, ha, idleEvent, hr, fire, hl, hp]

/-- With an event queued, a step is that event. -/
theorem step_of_agenda {e : Event} {rest : List Event} (h : s.agenda = e :: rest) :
    step s = fire e { s with agenda := rest } := by simp [step, nextEvent, h]

/-- A queued CPU event that nothing gates is a CPU step. -/
theorem fire_cpu (hl : s.live = true) (hp : s.paused = false) : fire .cpu s = cpuStep s := by
  simp [fire, hl, hp]

/-- With nothing queued, a fatal machine answers its fault. -/
theorem step_of_fatal {c : Cause} {a : Word} (ha : s.agenda = []) (h : s.status = .fatal c a) :
    step s = .fault (c.fault a) := by simp [step, nextEvent, ha, idleEvent, h]

/-- With nothing queued, a running machine that is paused or shut down does nothing. -/
theorem step_of_idle (ha : s.agenda = []) (hr : s.status = .running)
    (h : s.paused = true ∨ s.quit = true) : step s = .next s := by
  have : (s.live && !s.paused) = false := by rcases h with h | h <;> simp [State.live, h]
  simp [step, nextEvent, ha, idleEvent, hr, fire, this]

/-- Everything a step that answers a next state can have done. -/
theorem step_cases (h : step s = .next t) :
    (s.agenda = [] ∧ s.live = true ∧ s.paused = false ∧ cpuStep s = .next t) ∨
    (s.agenda = [] ∧ s.status = .running ∧ (s.live = false ∨ s.paused = true) ∧ t = s) ∨
    (∃ e rest, s.agenda = e :: rest ∧ fire e { s with agenda := rest } = .next t) := by
  cases ha : s.agenda with
  | cons e rest => exact .inr (.inr ⟨e, rest, rfl, by rwa [step_of_agenda ha] at h⟩)
  | nil =>
    cases hr : s.status with
    | fatal c a => rw [step_of_fatal ha hr] at h; cases h
    | running =>
      by_cases hg : s.live = true ∧ s.paused = false
      · exact .inl ⟨rfl, hg.1, hg.2, by rwa [step_of_cpuNext ⟨ha, hg.1, hg.2⟩] at h⟩
      · have hx : s.live = false ∨ s.paused = true := by
          cases hl : s.live <;> cases hp : s.paused <;> simp_all
        have hi : s.paused = true ∨ s.quit = true := by
          rcases hx with hx | hx
          · right; simpa [State.live, hr] using hx
          · exact .inl hx
        rw [step_of_idle ha hr hi] at h
        cases h
        exact .inr (.inl ⟨rfl, rfl, hx, rfl⟩)

/-- Everything a queued event that answers a next state can have done. -/
theorem fire_cases {e : Event} (h : fire e s = .next t) :
    t = s ∨
    (s.live = true ∧ s.paused = false ∧ e = .cpu ∧ cpuStep s = .next t) ∨
    (s.live = true ∧ e = .tick ∧ t = s.timerTick) ∨
    (s.live = true ∧ e = .present ∧ t = s.present) ∨
    (s.live = true ∧ ∃ now, e = .pass now ∧ t = s.schedulerPass now) ∨
    (∃ l, e = .host (.setKeys l) ∧ t = { s with keys := l }) ∨
    (∃ q, e = .host (.setStraps q) ∧ t = { s with straps := q }) ∨
    (∃ b, e = .host (.supplyRnd b) ∧ t = { s with rndQueue := s.rndQueue ++ b }) ∨
    (s.live = true ∧ ∃ l, e = .host (.setPause l) ∧ t = { s with paused := l }) ∨
    (s.live = true ∧ s.paused = true ∧ e = .host .stepPulse ∧ cpuStep s = .next t) ∨
    (e = .host .quit ∧ t = { s with quit := true }) ∨
    (∃ rom now, e = .host (.reset rom now) ∧ rom.length ≤ maxImage ∧ t = s.resetSequence rom now) := by
  cases e with
  | cpu =>
    simp only [fire] at h
    split at h
    · next hc =>
      simp only [Bool.and_eq_true, Bool.not_eq_true'] at hc
      exact .inr (.inl ⟨hc.1, hc.2, rfl, h⟩)
    · cases h; exact .inl rfl
  | tick =>
    simp only [fire, Host.Outcome.next.injEq] at h
    split at h
    · next hl => exact .inr (.inr (.inl ⟨hl, rfl, h.symm⟩))
    · exact .inl h.symm
  | present =>
    simp only [fire, Host.Outcome.next.injEq] at h
    split at h
    · next hl => exact .inr (.inr (.inr (.inl ⟨hl, rfl, h.symm⟩)))
    · exact .inl h.symm
  | pass now =>
    simp only [fire, Host.Outcome.next.injEq] at h
    split at h
    · next hl => exact .inr (.inr (.inr (.inr (.inl ⟨hl, now, rfl, h.symm⟩))))
    · exact .inl h.symm
  | host a =>
    cases a with
    | setKeys l => simp only [fire, hostAction] at h; cases h; simp
    | setStraps q => simp only [fire, hostAction] at h; cases h; simp
    | supplyRnd b => simp only [fire, hostAction] at h; cases h; simp
    | setPause l =>
      simp only [fire, hostAction, Host.Outcome.next.injEq] at h
      split at h
      · next hl => cases h; simp [hl]
      · exact .inl h.symm
    | stepPulse =>
      simp only [fire, hostAction] at h
      split at h
      · next hc => simp only [Bool.and_eq_true] at hc; simp [hc, h]
      · cases h; exact .inl rfl
    | quit => simp only [fire, hostAction] at h; cases h; simp
    | reset rom now =>
      simp only [fire, hostAction] at h
      split at h
      · next hc => cases h; simp [hc]
      · cases h

/-- The reset sequence from the reset state, with no image and the clock at 0, is the reset state. -/
theorem resetSequence_reset : State.reset.resetSequence [] 0 = State.reset := rfl

/-- The state with an opcode placed fetches exactly that opcode, from an address that exists. -/
theorem State.fetch_withOpcode (s : State) (op : Word) : (s.withOpcode op).fetch = some op := by
  have hpc : (s.withOpcode op).pc.toNat ≤ 0xFFE := by
    unfold State.withOpcode
    simp only [State.putBytes_pc]
    split
    · assumption
    · decide
  have h0 : (s.withOpcode op).byteAt (s.withOpcode op).pc.toNat = op.extractLsb' 8 8 := by
    unfold State.withOpcode
    simp only [State.putBytes_pc]
    rw [State.byteAt_putBytes]
    simp [wordBytes]
  have h1 : (s.withOpcode op).byteAt ((s.withOpcode op).pc.toNat + 1) = op.extractLsb' 0 8 := by
    unfold State.withOpcode
    simp only [State.putBytes_pc]
    rw [State.byteAt_putBytes]
    simp [wordBytes]
  unfold State.fetch
  rw [State.memRead2_some _ _ hpc, h0, h1, composeWord_bytes]

end Sys2Proof.Machine
end

