-- ==== Sys2Proof/Tests/Slice0.lean ====
section
/-! SUPPORT. Tests of the model, expected results from 95_test_vectors.md (the vector's number is in each
comment) and from the encodings of 30_encoding.md, and a witness for the hypotheses of each obligation. -/

namespace Sys2Proof.Tests

open Sys2Proof.Machine Sys2Proof.Spec

/-! ## WellFormed: one ill-formed term for each check, refused -/

/-- 00E0 and 00EE are not SYS words (40_flow.md R80). -/
theorem test_wf_sys : (Instr.sys 0x0E0).wf = false ∧ (Instr.sys 0x0EE).wf = false ∧
    (Instr.sys 0x1E0).wf = true := by decide

/-- A word of a family without unrecognised words (30_encoding.md R67). -/
theorem test_wf_unrecognised_family : (Instr.unrecognised 0x1228).wf = false ∧
    (Instr.unrecognised 0x0000).wf = false ∧ (Instr.unrecognised 0x5127).wf = false := by decide

/-- Recognised words of families 8, E and F (30_encoding.md R67). -/
theorem test_wf_unrecognised_selector : (Instr.unrecognised 0x812E).wf = false ∧
    (Instr.unrecognised 0xE39E).wf = false ∧ (Instr.unrecognised 0xF265).wf = false := by decide

/-- Unrecognised words (30_encoding.md R67, vectors T25 to T27). -/
theorem test_wf_unrecognised_ok : (Instr.unrecognised 0x8128).wf = true ∧
    (Instr.unrecognised 0xE39F).wf = true ∧ (Instr.unrecognised 0xF0FF).wf = true := by decide

/-! ## Decoding: a word of every row, written out bit by bit from 30_encoding.md R62 and R65 -/

/-- Rows 1 to 3: 0 nnnnnnnnnnnn, 0000000011100000, 0000000011101110. -/
theorem test_decode_sys : decodeWord 0b0000000100100011 = .sys 0x123 ∧
    decodeWord 0b0000000011100000 = .cls ∧
    decodeWord 0b0000000011101110 = .ret := by decide

/-- Rows 4, 5, 22: family, nnnnnnnnnnnn. -/
theorem test_decode_flow : decodeWord 0b0001001000101000 = .jp 0x228 ∧
    decodeWord 0b0010101010111100 = .call 0xABC ∧
    decodeWord 0b1011001000010000 = .jpV0 0x210 := by decide

/-- Rows 6, 7: family, x, nn. rows 8, 20: family, x, y, any low nibble. -/
theorem test_decode_skip : decodeWord 0b0011101001000010 = .seImm 0xA 0x42 ∧
    decodeWord 0b0100101001000010 = .sneImm 0xA 0x42 ∧
    decodeWord 0b0101000100100111 = .seReg 0x1 0x2 0x7 ∧
    decodeWord 0b1001000100100000 = .sneReg 0x1 0x2 0x0 := by decide

/-- Rows 9, 10, 23: family, x, nn. -/
theorem test_decode_imm : decodeWord 0b0110101000000101 = .ldImm 0xA 0x05 ∧
    decodeWord 0b0111101000000011 = .addImm 0xA 0x03 ∧
    decodeWord 0b1100001100001111 = .rnd 0x3 0x0F := by decide

/-- Rows 11 to 14: 8, x, y, selector 0 to 3. -/
theorem test_decode_logic : decodeWord 0b1000000100100000 = .ldReg 0x1 0x2 ∧
    decodeWord 0b1000000100100001 = .orReg 0x1 0x2 ∧
    decodeWord 0b1000000100100010 = .andReg 0x1 0x2 ∧
    decodeWord 0b1000000100100011 = .xorReg 0x1 0x2 := by decide

/-- Rows 15 to 19: 8, x, y, selector 4 to 7 and E. -/
theorem test_decode_arith : decodeWord 0b1000000100100100 = .addReg 0x1 0x2 ∧
    decodeWord 0b1000000100100101 = .subReg 0x1 0x2 ∧
    decodeWord 0b1000000100100110 = .shrReg 0x1 0x2 ∧
    decodeWord 0b1000000100100111 = .subnReg 0x1 0x2 ∧
    decodeWord 0b1000000100101110 = .shlReg 0x1 0x2 := by decide

/-- Row 21: A, nnnnnnnnnnnn. row 24: D, x, y, n. -/
theorem test_decode_index_display : decodeWord 0b1010001011110000 = .ldI 0x2F0 ∧
    decodeWord 0b1101000000010101 = .drw 0x0 0x1 0x5 := by decide

/-- Rows 25, 26: E, x, 10011110 or 10100001. -/
theorem test_decode_keys : decodeWord 0b1110001110011110 = .skp 0x3 ∧
    decodeWord 0b1110001110100001 = .sknp 0x3 := by decide

/-- Rows 27 to 30: F, x, 00000111, 00001010, 00010101, 00011000. -/
theorem test_decode_timers : decodeWord 0b1111001000000111 = .ldVxDT 0x2 ∧
    decodeWord 0b1111010100001010 = .ldVxK 0x5 ∧
    decodeWord 0b1111001000010101 = .ldDTVx 0x2 ∧
    decodeWord 0b1111001000011000 = .ldSTVx 0x2 := by decide

/-- Rows 31 to 35: F, x, 00011110, 00101001, 00110011, 01010101, 01100101. -/
theorem test_decode_memory : decodeWord 0b1111000100011110 = .addI 0x1 ∧
    decodeWord 0b1111101000101001 = .ldF 0xA ∧
    decodeWord 0b1111000100110011 = .ldB 0x1 ∧
    decodeWord 0b1111001001010101 = .store 0x2 ∧
    decodeWord 0b1111001001100101 = .load 0x2 := by decide

/-- R67: words of families 8, E and F that no row matches. -/
theorem test_decode_unrecognised : decodeWord 0b1000000100101000 = .unrecognised 0x8128 ∧
    decodeWord 0b1110001110011111 = .unrecognised 0xE39F ∧
    decodeWord 0b1111000011111111 = .unrecognised 0xF0FF := by decide

/-- The bytes of a word, the first the high one, and the numbering of the opcode table (20_memory.md R46,
vector T165). -/
theorem test_decode_bytes : decode [0xA1, 0x23] = .ok (.ldI 0x123, []) ∧
    decodeTableWord 16 0xA123 = some (.ldI 0x123) ∧ decode [0xA1] = .error .truncated := by decide

/-! ## Single steps -/

/-- The step that runs `op` at 0x200 from `s` answers a next state of which `p` holds. -/
def runs (s : State) (op : Nat) (p : State → Bool) : Bool :=
  match step (s.withFetchWord 16 op) with
  | .next t => p t
  | _       => false

/-- The step that runs `op` is refused with the address `a`. -/
def refuses (s : State) (op a : Nat) : Bool :=
  match step (s.withFetchWord 16 op) with
  | .refused r => r == .outOfRange a
  | _          => false

/-- The reset state with registers set. -/
def regs (l : List (Reg × Byte)) : State := l.foldl (fun s e => s.setV e.1 e.2) State.reset

/-- A state with I set and bytes placed there. -/
def dataAt (s : State) (i : Word) (bytes : List Byte) : State := (s.setI i).putBytes i.toNat bytes

/-- A state with the given quirk flags. -/
def quirked (s : State) (shift loadStore jump : Bool) : State :=
  { s with quirks := { shift := shift, loadStore := loadStore, jump := jump } }

/-- How many cells are lit. -/
def lit (t : State) : Nat := (t.fb.map (fun row => row.count true)).sum

/-- The reset state with one cell lit. -/
def withCell (s : State) (y x : Nat) : State := { s with fb := Framebuffer.setCell s.fb y x true }

/-- T2. -/
theorem test_sys : runs State.reset 0x0123 (fun t => t.pc == 0x202 && t.getV 1 == 0) = true := by decide

/-- T4. -/
theorem test_ret :
    runs { State.reset with sp := 1, stack := State.reset.stack.set 0 0x345 } 0x00EE
      (fun t => t.pc == 0x345 && t.sp == 0 && t.stackEntry 0 == 0x345) = true := by decide

/-- T5. -/
theorem test_ret_empty :
    runs State.reset 0x00EE
      (fun t => t.status == .fatal .stackUnderflow 0x200 && t.pc == 0x202) = true := by decide

/-- T6, S8. -/
theorem test_jp : runs State.reset 0x1228 (fun t => t.pc == 0x228) = true := by decide

/-- T8. -/
theorem test_call :
    runs State.reset 0x2ABC
      (fun t => t.pc == 0xABC && t.sp == 1 && t.stackEntry 0 == 0x202) = true := by decide

/-- T9. -/
theorem test_call_full :
    runs { State.reset with sp := 16 } 0x2ABC
      (fun t => t.status == .fatal .stackOverflow 0x200 && t.pc == 0x202) = true := by decide

/-- T11. -/
theorem test_seImm : runs (regs [(0xA, 0x42)]) 0x3A42 (fun t => t.pc == 0x204) = true := by decide

/-- T12. -/
theorem test_seImm_no : runs (regs [(0xA, 0x43)]) 0x3A42 (fun t => t.pc == 0x202) = true := by decide

/-- T14. -/
theorem test_sneImm : runs (regs [(0xA, 0x43)]) 0x4A42 (fun t => t.pc == 0x204) = true := by decide

/-- T13. -/
theorem test_sneImm_no : runs (regs [(0xA, 0x42)]) 0x4A42 (fun t => t.pc == 0x202) = true := by decide

/-- T17. -/
theorem test_seReg : runs (regs [(1, 7), (2, 7)]) 0x5127 (fun t => t.pc == 0x204) = true := by decide

/-- T16. -/
theorem test_seReg_no : runs (regs [(1, 7), (2, 8)]) 0x5120 (fun t => t.pc == 0x202) = true := by decide

/-- T19. -/
theorem test_sneReg : runs (regs [(1, 7), (2, 8)]) 0x9120 (fun t => t.pc == 0x204) = true := by decide

/-- T20. -/
theorem test_sneReg_no : runs (regs [(3, 9)]) 0x9330 (fun t => t.pc == 0x202) = true := by decide

/-- T22. -/
theorem test_jpV0 : runs (regs [(0, 4), (2, 0x10)]) 0xB210 (fun t => t.pc == 0x214) = true := by decide

/-- T23. -/
theorem test_jpV0_quirk :
    runs (quirked (regs [(0, 4), (2, 0x10)]) false false true) 0xB210
      (fun t => t.pc == 0x220) = true := by decide

/-- T25. -/
theorem test_unrecognised :
    runs (regs [(1, 1), (2, 2), (15, 3)]) 0x8128
      (fun t => t.pc == 0x202 && t.getV 1 == 1 && t.getV 15 == 3) = true := by decide

/-- T40. -/
theorem test_ldImm : runs State.reset 0x6A05 (fun t => t.getV 0xA == 5) = true := by decide

/-- T42. -/
theorem test_addImm :
    runs (regs [(0, 2)]) 0x70FF (fun t => t.getV 0 == 1 && t.getV 15 == 0) = true := by decide

/-- T43. -/
theorem test_addImm_vf : runs (regs [(15, 0xFF)]) 0x7F01 (fun t => t.getV 15 == 0) = true := by decide

/-- T44. -/
theorem test_ldReg :
    runs (regs [(1, 1), (2, 0x9A)]) 0x8120 (fun t => t.getV 1 == 0x9A && t.getV 2 == 0x9A) = true := by decide

/-- T45. -/
theorem test_orReg :
    runs (regs [(1, 0xF0), (2, 0x0F), (15, 0x55)]) 0x8121
      (fun t => t.getV 1 == 0xFF && t.getV 15 == 0x55) = true := by decide

/-- T46. -/
theorem test_andReg :
    runs (regs [(1, 0xF0), (2, 0x3C), (15, 0x55)]) 0x8122
      (fun t => t.getV 1 == 0x30 && t.getV 15 == 0x55) = true := by decide

/-- T47. -/
theorem test_xorReg :
    runs (regs [(1, 0xF0), (2, 0x3C), (15, 0x55)]) 0x8123
      (fun t => t.getV 1 == 0xCC && t.getV 15 == 0x55) = true := by decide

/-- T49. -/
theorem test_addReg :
    runs (regs [(1, 0xFF), (2, 1)]) 0x8124 (fun t => t.getV 1 == 0 && t.getV 15 == 1) = true := by decide

/-- T53. -/
theorem test_addReg_vf :
    runs (regs [(1, 0x10), (15, 0xF5)]) 0x81F4 (fun t => t.getV 1 == 5 && t.getV 15 == 1) = true := by decide

/-- T55. -/
theorem test_subReg :
    runs (regs [(1, 7), (2, 7)]) 0x8125 (fun t => t.getV 1 == 0 && t.getV 15 == 1) = true := by decide

/-- T57. -/
theorem test_subReg_vf :
    runs (regs [(15, 3), (2, 5)]) 0x8F25 (fun t => t.getV 15 == 0) = true := by decide

/-- T60. -/
theorem test_subnReg :
    runs (regs [(1, 8), (2, 7)]) 0x8127 (fun t => t.getV 1 == 0xFF && t.getV 15 == 0) = true := by decide

/-- T61. -/
theorem test_subnReg_borrow :
    runs (regs [(1, 5), (2, 7)]) 0x8127 (fun t => t.getV 1 == 2 && t.getV 15 == 1) = true := by decide

/-- T62. -/
theorem test_shrReg :
    runs (regs [(1, 5), (2, 8)]) 0x8126
      (fun t => t.getV 1 == 2 && t.getV 15 == 1 && t.getV 2 == 8) = true := by decide

/-- T63. -/
theorem test_shrReg_quirk :
    runs (quirked (regs [(1, 5), (2, 8)]) true false false) 0x8126
      (fun t => t.getV 1 == 4 && t.getV 15 == 0 && t.getV 2 == 8) = true := by decide

/-- T67. -/
theorem test_shlReg :
    runs (regs [(1, 0x81), (2, 0x40)]) 0x812E (fun t => t.getV 1 == 2 && t.getV 15 == 1) = true := by decide

/-- T68. -/
theorem test_shlReg_quirk :
    runs (quirked (regs [(1, 0x81), (2, 0x40)]) true false false) 0x812E
      (fun t => t.getV 1 == 0x80 && t.getV 15 == 0) = true := by decide

/-- T70. -/
theorem test_rnd :
    runs { State.reset with rndQueue := [0xB7] } 0xC30F
      (fun t => t.getV 3 == 7 && t.rndQueue == []) = true := by decide

/-- T72. -/
theorem test_rnd_vf :
    runs { State.reset with rndQueue := [0xA5, 0] } 0xCFFF (fun t => t.getV 15 == 0xA5) = true := by decide

/-- T80. -/
theorem test_ldI : runs State.reset 0xA2F0 (fun t => t.i == 0x2F0) = true := by decide

/-- T83. -/
theorem test_addI :
    runs ((regs [(1, 1)]).setI 0xFFF) 0xF11E (fun t => t.i == 0 && t.getV 15 == 1) = true := by decide

/-- T84. -/
theorem test_addI_16 :
    runs { (regs [(1, 1)]).setI 0xFFF with cfg := { Config.default with iAddTrunc12 := false } } 0xF11E
      (fun t => t.i == 0x1000 && t.getV 15 == 1) = true := by decide

/-- T87. -/
theorem test_ldF : runs (regs [(0xA, 0xA)]) 0xFA29 (fun t => t.i == 0x082) = true := by decide

/-- T89. -/
theorem test_ldF_beyond :
    runs ((regs [(0, 0x10)]).setI 0x123) 0xF029
      (fun t => t.i == 0x123 && t.getV 0 == 0x10) = true := by decide

/-- T92. -/
theorem test_ldB :
    runs ((regs [(1, 255)]).setI 0xFFD) 0xF133 (fun t => t.bytesAt 0xFFD 3 == [2, 5, 5]) = true := by decide

/-- T93. -/
theorem test_ldB_beyond : refuses ((regs [(1, 255)]).setI 0xFFE) 0xF133 0x1000 = true := by decide

/-- T94. -/
theorem test_store :
    runs ((regs [(0, 0x11), (1, 0x22), (2, 0x33)]).setI 0x300) 0xF255
      (fun t => t.bytesAt 0x300 4 == [0x11, 0x22, 0x33, 0] && t.i == 0x300) = true := by decide

/-- T96. -/
theorem test_store_quirk :
    runs (quirked ((regs [(0, 1), (1, 2), (2, 3)]).setI 0xFFD) false true false) 0xF255
      (fun t => t.bytesAt 0xFFD 3 == [1, 2, 3] && t.i == 0x1000) = true := by decide

/-- T100. -/
theorem test_load :
    runs (dataAt (regs [(2, 0x77)]) 0x300 [0xAB, 0xCD]) 0xF165
      (fun t => t.regsUpTo 2 == [0xAB, 0xCD, 0x77] && t.i == 0x300) = true := by decide

/-- T101. -/
theorem test_load_quirk :
    runs (quirked (dataAt State.reset 0x300 [0xAB, 0xCD]) false true false) 0xF165
      (fun t => t.i == 0x302) = true := by decide

/-- T110. -/
theorem test_cls :
    runs (withCell (withCell (regs [(15, 1)]) 5 7) 31 63) 0x00E0
      (fun t => lit t == 0 && t.getV 15 == 1 && t.out == [.cleared]) = true := by decide

/-- T113. -/
theorem test_drw_wrap :
    runs (dataAt (regs [(0, 60)]) 0x300 [0xFF]) 0xD011
      (fun t => lit t == 8 && Framebuffer.cell t.fb 0 63 && Framebuffer.cell t.fb 0 3 && t.getV 15 == 0) = true := by decide

/-- T117. -/
theorem test_drw_collision :
    runs (withCell (dataAt State.reset 0x300 [0xC0]) 0 1) 0xD011
      (fun t => lit t == 1 && Framebuffer.cell t.fb 0 0 && t.getV 15 == 1 && t.out == [.drew]) = true := by decide

/-- T130. -/
theorem test_skp :
    runs { regs [(3, 7)] with keys := 0x0080 } 0xE39E (fun t => t.pc == 0x204) = true := by decide

/-- T132. -/
theorem test_skp_beyond :
    runs { regs [(3, 0x17)] with keys := 0xFFFF } 0xE39E (fun t => t.pc == 0x202) = true := by decide

/-- T133. -/
theorem test_sknp :
    runs { regs [(3, 7)] with keys := 0x0080 } 0xE3A1 (fun t => t.pc == 0x202) = true := by decide

/-- T135. -/
theorem test_sknp_beyond :
    runs { regs [(3, 0x17)] with keys := 0xFFFF } 0xE3A1 (fun t => t.pc == 0x204) = true := by decide

/-- T136. -/
theorem test_ldVxK_wait :
    runs (regs [(5, 0xEE)]) 0xF50A (fun t => t.pc == 0x200 && t.getV 5 == 0xEE) = true := by decide

/-- T138. -/
theorem test_ldVxK :
    runs { regs [(5, 0xEE)] with keys := 0x1010 } 0xF50A
      (fun t => t.pc == 0x202 && t.getV 5 == 4) = true := by decide

/-- T140. -/
theorem test_ldVxDT :
    runs { State.reset with dt := 0x2A } 0xF207
      (fun t => t.getV 2 == 0x2A && t.dt == 0x2A) = true := by decide

/-- T141. -/
theorem test_ldDTVx :
    runs (regs [(2, 0xFF)]) 0xF215 (fun t => t.dt == 0xFF && t.st == 0) = true := by decide

/-- T142. -/
theorem test_ldSTVx :
    runs (regs [(2, 1)]) 0xF218 (fun t => t.st == 1 && t.sndActive && t.dt == 0) = true := by decide

/-! ## Fetch, events and reset -/

/-- The next event answers a state of which `p` holds. -/
def nextHas (s : State) (p : State → Bool) : Bool :=
  match step s with
  | .next t => p t
  | _       => false

/-- T21: the highest word executes, PC goes beyond. -/
theorem test_fetch_top :
    nextHas ({ State.reset with pc := 0xFFE }.putBytes 0xFFE [0x30, 0x00])
      (fun t => t.pc == 0x1002) = true := by decide

/-- T28: no word at 0xFFF. -/
theorem test_fetch_beyond : step { State.reset with pc := 0xFFF } = .refused (.outOfRange 0x1000) := rfl

/-- T29. -/
theorem test_fetch_odd :
    nextHas ({ State.reset with pc := 0x201 }.putBytes 0x201 [0x61, 0x77])
      (fun t => t.getV 1 == 0x77 && t.pc == 0x203) = true := by decide

/-- T145 and T144. -/
theorem test_tick :
    nextHas { State.reset with agenda := [.tick], dt := 255, st := 0 }
      (fun t => t.dt == 254 && t.st == 0 && t.pc == 0x200) = true := by decide

/-- T147. -/
theorem test_tick_fatal :
    nextHas { State.reset with agenda := [.tick], dt := 5, status := .fatal .stackOverflow 0x200 }
      (fun t => t.dt == 5) = true := by decide

/-- R163: a fatal machine answers its fault (log 1). -/
theorem test_fatal : step { State.reset with status := .fatal .stackUnderflow 0x200 } =
    .fault (.stackUnderflow 0x200) := rfl

/-- The events that a pass at `now` issues from the given LAST values. -/
def passed (now : Rat) (last : LastTicks) : Option (List Event × LastTicks) :=
  match step { State.reset with agenda := [.pass now], last := last } with
  | .next t => some (t.agenda, t.last)
  | _       => none

/-- T150. -/
theorem test_pass : passed (50 / 1000) { cpu := 0, timer := 0, frame := 0 } =
    some (List.replicate 35 .cpu ++ (List.replicate 3 .tick ++ List.replicate 3 .present),
      { cpu := 50 / 1000, timer := 50 / 1000, frame := 50 / 1000 }) := by decide +kernel

/-- T152: 0.2 of a period is carried. -/
theorem test_pass_remainder :
    passed (70 / 1000) { cpu := 60 / 1000, timer := 50 / 1000, frame := 50 / 1000 } =
      some (List.replicate 7 .cpu ++ [.tick, .present],
        { cpu := 70 / 1000, timer := 50 / 1000 + 1 / 60, frame := 50 / 1000 + 1 / 60 }) := by
  decide +kernel

/-- T160 and T164. -/
theorem test_reset :
    nextHas { State.reset with status := .fatal .stackOverflow 0x200, pc := 0x202, agenda := [.host (.reset [0x12, 0x28] 7)] }
      (fun t => t.bytesAt 0x200 3 == [0x12, 0x28, 0] && t.pc == 0x200 && t.status == .running) = true := by decide

/-- T161. -/
theorem test_font :
    (State.reset.bytesAt 0x04F 2 == [0x00, 0xF0]
      && State.reset.bytesAt 0x09B 6 == [0xF0, 0x80, 0xF0, 0x80, 0x80, 0x00]) = true := by decide

/-! ## Witnesses: a state and operands that meet the hypotheses of each obligation -/

/-- The reset state with a stack of `n` entries in use. -/
def stacked (n : Nat) : State := { State.reset with sp := n }

/-- The reset state with V0 = `b`. -/
def v0 (b : Byte) : State := regs [(0, b)]

/-- The reset state with an agenda. -/
def queued (l : List Event) : State := { State.reset with agenda := l }

/-- The reset state standing in a fatal condition. -/
def fatalWith (c : Cause) (l : List Event) : State := { queued l with status := .fatal c 0x200 }

theorem witness_legal : State.reset.Legal := by decide +kernel

theorem witness_DecodeOfEncodeIsIdentity : (Instr.sys 0x0EF).wf = true ∧ (Instr.sys 0x0DF).wf = true ∧
    (Instr.unrecognised 0x8128).wf = true ∧ (Instr.drw 0xF 0xF 0xF).wf = true := by decide

theorem witness_FetchIsBigEndian : { State.reset with pc := 0xFFE }.pc.toNat ≤ 0xFFE := by decide

/-- The reset state with an agenda and PC at the highest address that fetches. -/
def atTop (l : List Event) : State := { queued l with pc := 0xFFE }

/-- Both clauses: nothing queued, and a CPU event queued before a tick. -/
theorem witness_StepRunsDecodedInstruction :
    ((atTop []).pc.toNat ≤ 0xFFE ∧
      decode [(atTop []).byteAt (atTop []).pc.toNat, (atTop []).byteAt ((atTop []).pc.toNat + 1)] =
        .ok (.sys 0, []) ∧
      (atTop []).status = .running ∧ (atTop []).quit = false ∧ (atTop []).paused = false ∧
      (atTop []).agenda = []) ∧
    (atTop [.cpu, .tick]).pc.toNat ≤ 0xFFE ∧ (atTop [.cpu, .tick]).agenda = .cpu :: [.tick] :=
  ⟨⟨by decide, rfl, rfl, rfl, rfl, rfl⟩, by decide, rfl⟩

theorem witness_PlacedWordRunsNext : 0xFFFF < 2 ^ 16 := by decide

/-- Both kinds of word, the last SYS word and an unrecognised one. -/
theorem witness_NoOpWordsOnlyAdvancePc :
    ((State.reset.withFetchWord 16 0x0FFF).CpuNext ∧
      (State.reset.withFetchWord 16 0x0FFF).fetch = some 0x0FFF) ∧
    ((State.reset.withFetchWord 16 0x8128).CpuNext ∧
      (State.reset.withFetchWord 16 0x8128).fetch = some 0x8128 ∧ isUnrecognised 0x8128 = true) := by decide

theorem witness_CallPushesReturnAddress : (stacked 15).stack.length = (stacked 15).cfg.stackCap.size ∧
    (stacked 15).sp < (stacked 15).cfg.stackCap.size := by decide

theorem witness_CallOnFullStackIsFatal : (stacked 16).sp = (stacked 16).cfg.stackCap.size := by decide

theorem witness_ReturnPopsTopEntry : (stacked 1).sp ≠ 0 ∧ (stacked 16).sp ≠ 0 := by decide

theorem witness_ReturnOnEmptyStackIsFatal : State.reset.sp = 0 := rfl

/-- The state after the CALL, and one in which a nested call has left a stale entry at SP. -/
theorem witness_ReturnUndoesCall : (stacked 14).stack.length = (stacked 14).cfg.stackCap.size ∧
    (stacked 14).sp < (stacked 14).cfg.stackCap.size ∧
    ∃ t, exec (.call 0xABC) (stacked 14) = .next t ∧
      { t with stack := t.stack.set 15 0x123 }.sp = t.sp ∧
      ({ t with stack := t.stack.set 15 0x123 }.stack = t.stack → False) ∧
      ∀ k < t.sp, { t with stack := t.stack.set 15 0x123 }.stackEntry k = t.stackEntry k :=
  ⟨by decide, by decide, _, rfl, by decide, by decide, by decide⟩

/-- A full stack, and an empty one that sixteen calls fill. -/
theorem witness_NestedCallsFillTheStackExactly : (stacked 16).sp ≤ (stacked 16).cfg.stackCap.size ∧
    (stacked 0).sp + 16 ≤ (stacked 0).cfg.stackCap.size := by decide

/-- Both quirk settings. -/
theorem witness_ShiftsSetResultThenShiftedOutBit :
    ((quirked (v0 5) true false false).quirks.shift = true ∧ (quirked (v0 5) true false false).getV 1 = 0) ∧
    ((v0 5).quirks.shift = false ∧ (v0 5).getV 0 = 5) := by decide

/-- A flag writer, and an instruction that is none and has another destination. -/
theorem witness_OnlyFlagWritersTouchVF :
    (isFlagWriter (.addReg 0 1) = true ∧ ∃ t, exec (.addReg 0 1) State.reset = .next t) ∧
    (isFlagWriter (.load 14) = false ∧ isDestination (.load 14) VF = false ∧
      ∃ t, exec (.load 14) State.reset = .next t) := ⟨⟨rfl, _, rfl⟩, rfl, rfl, _, rfl⟩

/-- An injected byte, and none. -/
theorem witness_RandomIsMaskedAndConsumesOne :
    { State.reset with rndQueue := [0xB7] }.rndQueue = 0xB7 :: [] ∧ State.reset.rndQueue = [] := by decide

/-- Both clauses, at the last digit and at the first value beyond. -/
theorem witness_FontAddressOrNoOp : (v0 0x0F).cfg.Legal ∧ ((v0 0x0F).getV 0).toNat ≤ 0x0F ∧
    (v0 0x10).cfg.Legal ∧ ((v0 0x10).getV 0).toNat > 0x0F := by decide +kernel

theorem witness_BcdStoresThreeDigits : (State.reset.setI 0xFFD).i.toNat + 2 ≤ 0xFFF := by decide

/-- The highest address that FX55 and FX65 with X = 15 and with X = 0 may start at. -/
theorem witness_StoreWritesRegistersAtI :
    (State.reset.setI 0xFF0).i.toNat + (15 : Reg).toNat ≤ 0xFFF ∧
    (State.reset.setI 0xFFF).i.toNat + (0 : Reg).toNat ≤ 0xFFF := by decide

/-- The first and the last register of the range, and one beyond it. -/
theorem witness_LoadReadsRegistersFromI : (State.reset.setI 0xFF0).i.toNat + (15 : Reg).toNat ≤ 0xFFF ∧
    (0 : Reg).toNat ≤ (14 : Reg).toNat ∧ (14 : Reg).toNat < (15 : Reg).toNat := by decide

/-- The state after the store itself is such a `t'` when I does not move. -/
theorem witness_StoreThenLoadRestoresRegisters :
    (State.reset.setI 0xFF0).i.toNat + (15 : Reg).toNat ≤ 0xFFF ∧
    ∃ t, exec (.store 15) (State.reset.setI 0xFF0) = .next t ∧ t.mem = t.mem ∧ t.cfg = t.cfg ∧
      t.i = (State.reset.setI 0xFF0).i := ⟨by decide, _, rfl, rfl, rfl, rfl⟩

/-- Each clause at the last value in range and at the first value out of range. -/
theorem witness_OutOfRangeAccessIsRefused :
    (State.reset.setI 0xFFD).i.toNat + 2 ≤ 0xFFF ∧ (State.reset.setI 0xFFE).i.toNat + 2 > 0xFFF ∧
    (State.reset.setI 0xFFE).i.toNat + (1 : Reg).toNat ≤ 0xFFF ∧
    (State.reset.setI 0xFFF).i.toNat + (1 : Reg).toNat > 0xFFF ∧
    ¬ SpriteInRange (State.reset.setI 0xFFF) 2 ∧ SpriteInRange (State.reset.setI 0xFFF) 1 ∧
    SpriteInRange (State.reset.setI 0x1234) 0 ∧ { State.reset with pc := 0xFFF }.pc.toNat > 0xFFE := by
  decide

/-- The reset state with I and PC set. -/
def storeAt (i pc : Word) : State := { State.reset with i := i, pc := pc }

/-- Both bytes at PC stored at the top of memory, the high one only, the low one only, and none. -/
theorem witness_StoreIsSeenByNextFetch :
    ((storeAt 0xFFE 0xFFE).pc.toNat ≤ 0xFFE ∧ (storeAt 0xFFE 0xFFE).i.toNat + (1 : Reg).toNat ≤ 0xFFF) ∧
    ((storeAt 0x300 0x300).pc.toNat = (storeAt 0x300 0x300).i.toNat + 0 ∧
      (storeAt 0x300 0x300).i.toNat + ((0 : Reg).toNat + 1) ≤ (storeAt 0x300 0x300).pc.toNat + 1) ∧
    ((storeAt 0x301 0x300).pc.toNat < (storeAt 0x301 0x300).i.toNat ∧
      (storeAt 0x301 0x300).pc.toNat + 1 = (storeAt 0x301 0x300).i.toNat + 0) ∧
    ((storeAt 0xFFD 0xFFB).pc.toNat + 1 < (storeAt 0xFFD 0xFFB).i.toNat ∧
      (storeAt 0xFFD 0xFFB).i.toNat + 2 ≤ 0xFFF) := by decide

/-- The longest sprite at the highest address; a covered cell that has wrapped, and one not covered. -/
theorem witness_DrawTogglesExactlyTheSpriteCells :
    (State.reset.setI 0xFF1).Legal ∧ SpriteInRange (State.reset.setI 0xFF1) 15 ∧
    (dataAt (v0 63) 0x300 [0x40]).Legal ∧ SpriteInRange (dataAt (v0 63) 0x300 [0x40]) 1 ∧
    SpriteCovers (dataAt (v0 63) 0x300 [0x40]) 0 1 1 0 0 ∧
    ¬ SpriteCovers (dataAt (v0 63) 0x300 [0x40]) 0 1 1 0 63 := by decide +kernel

/-- A draw that unsets a cell, and one that leaves every set cell set. -/
theorem witness_DrawFlagIsCollision :
    (withCell (dataAt State.reset 0x300 [0xC0]) 0 1).Legal ∧
    SpriteInRange (withCell (dataAt State.reset 0x300 [0xC0]) 0 1) 1 ∧
    Framebuffer.cell (withCell (dataAt State.reset 0x300 [0xC0]) 0 1).fb 0 1 = true ∧
    runs (withCell (dataAt State.reset 0x300 [0xC0]) 0 1) 0xD011
      (fun t => !(Framebuffer.cell t.fb 0 1)) = true ∧
    runs (withCell (dataAt State.reset 0x300 [0x80]) 0 1) 0xD011
      (fun t => Framebuffer.cell t.fb 0 1 && lit t == 2) = true := by decide +kernel

theorem witness_DrawTwiceRestoresFramebuffer : (State.reset.setI 0x050).Legal ∧
    SpriteInRange (State.reset.setI 0x050) 5 ∧ (0 : Reg) ≠ VF ∧ (1 : Reg) ≠ VF := by decide +kernel

/-- Both clauses. -/
theorem witness_WaitForKeyRepeatsWithoutKey : (State.reset.withFetchWord 16 0xF50A).keys = 0 ∧
    (State.reset.withFetchWord 16 0xF50A).CpuNext ∧
    (State.reset.withFetchWord 16 0xF50A).fetch = some 0xF50A ∧ decodeWord 0xF50A = .ldVxK 5 := by decide

/-- The last key alone, under the default KeySelect. -/
theorem witness_WaitForKeyStoresPressedKey : { State.reset with keys := 0x8000 }.keys ≠ 0 ∧
    { State.reset with keys := 0x8000 }.cfg.keySelect = .lowest := by decide

theorem witness_TimerTickDecrementsAndClamps : (queued [.tick]).agenda = .tick :: [] ∧
    (queued [.tick]).status = .running ∧ (queued [.tick]).quit = false := ⟨rfl, rfl, rfl⟩

theorem witness_PresentationHandsOverSnapshot : (queued [.present]).agenda = .present :: [] ∧
    (queued [.present]).status = .running ∧ (queued [.present]).quit = false := ⟨rfl, rfl, rfl⟩

/-- Each clause: either cause with nothing queued, and a queued event that is no reset. -/
theorem witness_FatalStateIsTerminal :
    ((fatalWith .stackOverflow []).status = .fatal .stackOverflow 0x200 ∧
      (fatalWith .stackOverflow []).agenda = []) ∧
    ((fatalWith .stackUnderflow []).status = .fatal .stackUnderflow 0x200 ∧
      (fatalWith .stackUnderflow []).agenda = []) ∧
    ((fatalWith .stackOverflow [.tick]).agenda = .tick :: [] ∧
      ∀ rom now, Event.tick ≠ .host (.reset rom now)) :=
  ⟨⟨rfl, rfl⟩, ⟨rfl, rfl⟩, rfl, fun _ _ => nofun⟩

/-- The longest image that fits (vector T162), from a fatal state. -/
theorem witness_ResetRestoresEveryPieceOfState :
    (fatalWith .stackOverflow [.host (.reset (List.replicate 3584 0) 7)]).agenda =
      .host (.reset (List.replicate 3584 0) 7) :: [] ∧
    (List.replicate 3584 (0 : Byte)).length ≤ 3584 ∧
    (fatalWith .stackOverflow [.host (.reset (List.replicate 3584 0) 7)]).cfg.Legal :=
  ⟨rfl, List.length_replicate.le, witness_legal.1⟩

/-- Vector T163. -/
theorem witness_OversizedImageIsRefused :
    (queued [.host (.reset (List.replicate 3585 0) 7)]).agenda =
      .host (.reset (List.replicate 3585 0) 7) :: [] ∧
    (List.replicate 3585 (0 : Byte)).length > 3584 :=
  ⟨rfl, Nat.lt_of_lt_of_eq (Nat.lt_succ_self 3584) List.length_replicate.symm⟩

/-- The reset state, paused, with an agenda. -/
def pausedWith (l : List Event) : State := { queued l with paused := true }

/-- Every clause: paused with nothing, a CPU event, a pulse, a tick and a presentation queued, not paused with
a pulse queued, and a level set. -/
theorem witness_PauseGatesOnlyCpuSteps :
    (∀ l, (pausedWith l).status = .running ∧ (pausedWith l).quit = false ∧ (pausedWith l).paused = true) ∧
    (pausedWith []).agenda = [] ∧ (pausedWith [.cpu]).agenda = .cpu :: [] ∧
    (pausedWith [.host .stepPulse]).agenda = .host .stepPulse :: [] ∧
    (pausedWith [.tick]).agenda = .tick :: [] ∧ (pausedWith [.present]).agenda = .present :: [] ∧
    ((queued [.host .stepPulse]).agenda = .host .stepPulse :: [] ∧
      (queued [.host .stepPulse]).status = .running ∧ (queued [.host .stepPulse]).quit = false ∧
      (queued [.host .stepPulse]).paused = false) ∧
    (pausedWith [.host (.setPause false)]).agenda = .host (.setPause false) :: [] :=
  ⟨fun _ => ⟨rfl, rfl, rfl⟩, rfl, rfl, rfl, rfl, rfl, ⟨rfl, rfl, rfl, rfl⟩, rfl⟩

/-- A pass at the reading of LAST itself (nothing owed), paused, and a later one, not paused. -/
theorem witness_SchedulerPassIssuesWholePeriods :
    ({ queued [.pass 0] with paused := true }.agenda = .pass 0 :: [] ∧
      { queued [.pass 0] with paused := true }.status = .running ∧
      { queued [.pass 0] with paused := true }.quit = false ∧
      { queued [.pass 0] with paused := true }.paused = true) ∧
    ((queued [.pass 1]).agenda = .pass 1 :: [] ∧ (queued [.pass 1]).status = .running ∧
      (queued [.pass 1]).quit = false ∧ (queued [.pass 1]).paused = false) ∧
    (queued [.pass 1]).cfg.Legal ∧ (queued [.pass 1]).last.cpu ≤ 0 ∧ (queued [.pass 1]).last.timer ≤ 0 ∧
    (queued [.pass 1]).last.frame ≤ 0 ∧ (queued [.pass 1]).last.cpu ≤ 1 ∧
    (queued [.pass 1]).last.timer ≤ 1 ∧ (queued [.pass 1]).last.frame ≤ 1 :=
  ⟨⟨rfl, rfl, rfl, rfl⟩, ⟨rfl, rfl, rfl, rfl⟩, witness_legal.1, by decide +kernel⟩

/-- The reset state with a quit request and an agenda. -/
def quitWith (l : List Event) : State := { queued l with quit := true }

/-- Each clause, a pulse on a paused machine and a pause change among the events. -/
theorem witness_QuitStopsEveryEvent : (queued [.host .quit]).agenda = .host .quit :: [] ∧
    ((quitWith []).quit = true ∧ (quitWith []).status = .running ∧ (quitWith []).agenda = []) ∧
    (quitWith [.tick]).agenda = .tick :: [] ∧
    ({ quitWith [.host .stepPulse] with paused := true }.quit = true ∧
      { quitWith [.host .stepPulse] with paused := true }.agenda = .host .stepPulse :: []) ∧
    (quitWith [.host (.setPause true)]).agenda = .host (.setPause true) :: [] :=
  ⟨rfl, ⟨rfl, rfl, rfl⟩, rfl, ⟨rfl, rfl⟩, rfl⟩

theorem witness_StepKeepsStateLegal : State.reset.Legal ∧ ∃ t, step State.reset = .next t :=
  ⟨witness_legal, _, rfl⟩

/-- The largest I that the bound allows. -/
theorem witness_StepKeepsIndexBound : (State.reset.setI 0x1000).cfg.Legal ∧
    (State.reset.setI 0x1000).IndexBound ∧ ∃ t, step (State.reset.setI 0x1000) = .next t :=
  ⟨witness_legal.1, fun _ => by decide, _, rfl⟩

theorem witness_ConfigurationIsFixedUntilReset :
    (∃ t, step State.reset = .next t) ∧
    (∃ t, step (queued [.host (.reset [0x12, 0x28] 0)]) = .next t) := ⟨⟨_, rfl⟩, _, rfl⟩

/-- Each clause: the two conditions, and a step that faults in a fatal state. -/
theorem witness_OnlyTwoConditionsAreFatal :
    (∃ t, exec (.call 0xABC) (stacked 16) = .next t ∧ t.status ≠ (stacked 16).status) ∧
    (∃ t, exec .ret State.reset = .next t ∧ t.status ≠ State.reset.status) ∧
    step (fatalWith .stackOverflow []) = .fault (.stackOverflow 0x200) ∧
    (fatalWith .stackOverflow []).status = .fatal .stackOverflow 0x200 :=
  ⟨⟨_, rfl, nofun⟩, ⟨_, rfl, nofun⟩, rfl, rfl⟩

/-- Each clause at an instruction it applies to, the clause about a register at VF too. -/
theorem witness_EachStateIsWrittenOnlyByItsInstructions :
    (∃ t, exec (.jp 0x228) State.reset = .next t) ∧ writesMemory (.jp 0x228) = false ∧
    writesScreen (.jp 0x228) = false ∧ writesIndex (.jp 0x228) = false ∧ usesStack (.jp 0x228) = false ∧
    writesDT (.jp 0x228) = false ∧ writesST (.jp 0x228) = false ∧ usesRandom (.jp 0x228) = false ∧
    movesPc (.load 2) = false ∧ isDestination (.load 2) 3 = false ∧ isDestination (.load 14) VF = false ∧
    isFlagWriter (.load 14) = false ∧ ∃ t, exec (.load 2) State.reset = .next t :=
  ⟨⟨_, rfl⟩, rfl, rfl, rfl, rfl, rfl, rfl, rfl, rfl, rfl, rfl, rfl, _, rfl⟩

/-- Both clauses. -/
theorem witness_OnlyKeyInstructionsReadKeys : readsKeys (.ldB 0) = false ∧
    (∃ t, exec (.ldB 0) (State.reset.setI 0xFFD) = .next t) ∧
    (∃ r, exec (.ldB 0) (State.reset.setI 0xFFE) = .refused r) := ⟨rfl, ⟨_, rfl⟩, _, rfl⟩

theorem witness_SelfJumpChangesNothing : (State.reset.withFetchWord 16 0x1200).CpuNext ∧
    (State.reset.withFetchWord 16 0x1200).AtEnd := by decide

end Sys2Proof.Tests
end

section
/-! Every step keeps a legal state legal: the operations that write a legal field keep it legal, so the
instructions do, so the CPU step does, so the events do. Every other operation leaves the five fields
`State.Legal` reads as they are, and then the legality of the new state is that of the old one. -/

namespace Sys2Proof.Machine

variable {s t : State}

/-! The operations on a legal state -/

theorem State.Legal.skipIf (hs : s.Legal) (cond : Bool) : (s.skipIf cond).Legal := by
  simpa [State.Legal] using hs

theorem State.Legal.advanceI (hs : s.Legal) (x : Reg) : (s.advanceI x).Legal := by
  simpa [State.Legal] using hs

theorem State.Legal.withFb (hs : s.Legal) {fb : Framebuffer}
    (hfb : Framebuffer.shaped s.cfg.fbW s.cfg.fbH fb) : { s with fb := fb }.Legal := by
  obtain ⟨hcfg, hmem, hlen, hsp, -⟩ := hs
  exact ⟨hcfg, hmem, hlen, hsp, hfb⟩

/-- The sprite of DXYN is drawn on a grid of the same shape. -/
theorem State.Legal.shaped_drawn (hs : s.Legal) (x y : Reg) (n : Nibble) :
    Framebuffer.shaped s.cfg.fbW s.cfg.fbH (s.drawn x y n).1 := by
  obtain ⟨-, -, -, -, hfb⟩ := hs
  exact drawSprite_shaped _ _ _ hfb

theorem State.Legal.putBytes (hs : s.Legal) {base : Nat} {bytes : List Byte}
    (hfit : base + bytes.length ≤ memSize) : (s.putBytes base bytes).Legal := by
  obtain ⟨hcfg, hmem, hlen, hsp, hfb⟩ := hs
  exact ⟨hcfg, Memory.wf_writeList _ _ _ _ hmem hfit, hlen, hsp, hfb⟩

theorem State.Legal.push (hs : s.Legal) {w : Word} (h : s.push w = some t) : t.Legal := by
  obtain ⟨hcfg, hmem, hlen, hsp, hfb⟩ := hs
  obtain ⟨hroom, rfl⟩ := (State.push_eq_some s).mp h
  exact ⟨hcfg, hmem, (List.length_set ..).trans hlen, Nat.lt_of_le_of_ne hsp hroom, hfb⟩

theorem State.Legal.pop (hs : s.Legal) {w : Word} (h : s.pop = some (w, t)) : t.Legal := by
  obtain ⟨hcfg, hmem, hlen, hsp, hfb⟩ := hs
  obtain ⟨-, -, rfl⟩ := (State.pop_eq_some s).mp h
  exact ⟨hcfg, hmem, hlen, (Nat.sub_le ..).trans hsp, hfb⟩

/-- The reset sequence rebuilds the stack, the framebuffer and, from an image that fits, the memory. -/
theorem State.Legal.resetSequence (hs : s.Legal) {rom : List Byte} (hfit : rom.length ≤ maxImage)
    (now : Rat) : (s.resetSequence rom now).Legal := by
  obtain ⟨hcfg, -, -, -, -⟩ := hs
  have hmem : Memory.wf s.cfg (Memory.load s.cfg [] progBase rom) :=
    Memory.wf_load _ _ _ _ (Memory.wf_nil _) (by simp only [progBase, maxImage, memSize] at hfit ⊢; omega)
  exact ⟨hcfg, hmem, List.length_replicate, Nat.zero_le _, Framebuffer.shaped_blank _ _⟩

/-! The instructions on a legal state -/

/-- An access of at least one byte that answers a next state lies within memory (20_memory.md R50). -/
theorem accessing_next_fits {base n : Nat} {u : State} (h : accessing base (n + 1) u = .next t) :
    base + (n + 1) ≤ memSize ∧ t = u := by
  obtain ⟨hr, rfl⟩ := accessing_next.mp h
  exact ⟨((inRange_iff _ _).mp hr).resolve_left (Nat.succ_ne_zero n), rfl⟩

theorem execCall_legal (hs : s.Legal) {nnn : Addr12} (h : execCall nnn s = .next t) : t.Legal := by
  unfold execCall at h
  split at h
  · next u hpush =>
    cases h
    have hu : u.Legal := hs.push hpush
    exact hu
  · cases h; exact hs

theorem execRet_legal (hs : s.Legal) (h : execRet s = .next t) : t.Legal := by
  unfold execRet at h
  split at h
  · next w u hpop =>
    cases h
    have hu : u.Legal := hs.pop hpop
    exact hu
  · cases h; exact hs

theorem execDrw_legal (hs : s.Legal) {x y : Reg} {n : Nibble} (h : execDrw x y n s = .next t) :
    t.Legal := by
  obtain ⟨-, rfl⟩ := accessing_next.mp h
  exact hs.withFb (hs.shaped_drawn x y n)

theorem execLdB_legal (hs : s.Legal) {x : Reg} (h : execLdB x s = .next t) : t.Legal := by
  obtain ⟨hfit, rfl⟩ := accessing_next_fits h
  exact hs.putBytes hfit

theorem execStore_legal (hs : s.Legal) {x : Reg} (h : execStore x s = .next t) : t.Legal := by
  obtain ⟨hfit, rfl⟩ := accessing_next_fits h
  exact (hs.putBytes (by simpa using hfit)).advanceI x

theorem execLoad_legal (hs : s.Legal) {x : Reg} (h : execLoad x s = .next t) : t.Legal := by
  obtain ⟨-, rfl⟩ := accessing_next.mp h
  have hregs : (s.setRegs (s.bytesAt s.base (x.toNat + 1))).Legal := hs
  exact hregs.advanceI x

theorem execLdF_legal (hs : s.Legal) {x : Reg} (h : execLdF x s = .next t) : t.Legal := by
  unfold execLdF at h
  split at h <;> (cases h; exact hs)

theorem execLdVxK_legal (hs : s.Legal) {x : Reg} (h : execLdVxK x s = .next t) : t.Legal := by
  unfold execLdVxK at h
  split at h <;> (cases h; exact hs)

/-- Every instruction keeps a legal state legal. -/
theorem exec_legal (hs : s.Legal) {i : Instr} (h : exec i s = .next t) : t.Legal := by
  cases i with
  | cls => cases h; exact hs.withFb (Framebuffer.shaped_blank _ _)
  | ret => exact execRet_legal hs h
  | call nnn => exact execCall_legal hs h
  | drw x y n => exact execDrw_legal hs h
  | ldB x => exact execLdB_legal hs h
  | store x => exact execStore_legal hs h
  | load x => exact execLoad_legal hs h
  | ldF x => exact execLdF_legal hs h
  | ldVxK x => exact execLdVxK_legal hs h
  | seImm | sneImm | seReg | sneReg | skp | sknp => cases h; exact hs.skipIf _
  | sys | unrecognised | jp | jpV0 | ldI | addI | ldImm | addImm | ldReg | orReg | andReg | xorReg
  | addReg | subReg | shrReg | subnReg | shlReg | rnd | ldVxDT | ldDTVx | ldSTVx => cases h; exact hs

/-! The events on a legal state -/

theorem cpuStep_legal (hs : s.Legal) (h : cpuStep s = .next t) : t.Legal := by
  cases hf : s.fetch with
  | none => rw [cpuStep_of_fetch_none hf] at h; cases h
  | some op =>
    rw [cpuStep_of_fetch hf] at h
    have hadv : s.advancePc.Legal := hs
    exact exec_legal hadv h

theorem fire_legal (hs : s.Legal) {e : Event} (h : fire e s = .next t) : t.Legal := by
  rcases fire_cases h with rfl | ⟨-, -, -, hcpu⟩ | ⟨-, -, rfl⟩ | ⟨-, -, rfl⟩ | ⟨-, now, -, rfl⟩ |
    ⟨levels, -, rfl⟩ | ⟨levels, -, rfl⟩ | ⟨bytes, -, rfl⟩ | ⟨-, level, -, rfl⟩ | ⟨-, -, -, hcpu⟩ |
    ⟨-, rfl⟩ | ⟨rom, now, -, hfit, rfl⟩
  · exact hs
  · exact cpuStep_legal hs hcpu
  · exact hs
  · exact hs
  · exact hs
  · exact hs
  · exact hs
  · exact hs
  · exact hs
  · exact cpuStep_legal hs hcpu
  · exact hs
  · exact hs.resetSequence hfit now

theorem step_legal (hs : s.Legal) (h : step s = .next t) : t.Legal := by
  obtain ⟨-, -, -, hcpu⟩ | ⟨-, -, -, rfl⟩ | ⟨e, rest, -, hfire⟩ := step_cases h
  · exact cpuStep_legal hs hcpu
  · exact hs
  · have hrest : { s with agenda := rest }.Legal := hs
    exact fire_legal hrest hfire

end Sys2Proof.Machine

namespace Sys2Proof.Spec

open Sys2Proof.Machine

/-- Settles O53, from the legality kept by the CPU step and by every queued event. -/
theorem stepKeepsStateLegal : Obligations.StepKeepsStateLegal := by
  unfold Obligations.StepKeepsStateLegal
  intro s t hs h
  exact step_legal hs h

end Sys2Proof.Spec
end

section
/-! What each instruction may write, said once (10_state.md R11 to R21, R31): the frame of every
instruction by the classes of `Sys2Proof.Spec`, and the registers and the flag apart. -/

namespace Sys2Proof.Machine

open Sys2Proof.Spec

variable {s t : State}

/-! The instructions whose answer takes a case split -/

theorem State.skipIf_frame (s : State) (cond : Bool) : ∃ p, s.skipIf cond = { s with pc := p } := by
  unfold State.skipIf
  split
  · exact ⟨_, rfl⟩
  · exact ⟨_, rfl⟩

theorem execCall_frame {nnn : Addr12} (h : execCall nnn s = .next t) :
    ∃ p stk n c, t = { s with pc := p, stack := stk, sp := n, status := c } := by
  by_cases hfull : s.sp = s.cfg.stackCap.size
  · rw [execCall_of_full s hfull] at h; cases h; exact ⟨_, _, _, _, rfl⟩
  · rw [execCall_of_room s hfull] at h; cases h; exact ⟨_, _, _, _, rfl⟩

theorem execRet_frame (h : execRet s = .next t) :
    ∃ p n c, t = { s with pc := p, sp := n, status := c } := by
  by_cases hempty : s.sp = 0
  · rw [execRet_of_empty s hempty] at h; cases h; exact ⟨_, _, _, rfl⟩
  · rw [execRet_of_entries s hempty] at h; cases h; exact ⟨_, _, _, rfl⟩

/-- FX29 selects the glyph of a digit and does nothing above 0x0F. -/
theorem execLdF_of_digit {x : Reg} (h : (s.getV x).toNat ≤ 0x0F) :
    execLdF x s = .next (s.setI (fontAddr s.cfg (s.getV x))) := congrArg Host.Outcome.next (if_pos h)

theorem execLdF_of_beyond {x : Reg} (h : ¬ (s.getV x).toNat ≤ 0x0F) : execLdF x s = .next s :=
  congrArg Host.Outcome.next (if_neg h)

theorem execLdF_cases {x : Reg} (h : execLdF x s = .next t) :
    t = s ∨ (s.getV x).toNat ≤ 0x0F ∧ t = s.setI (fontAddr s.cfg (s.getV x)) := by
  by_cases hdigit : (s.getV x).toNat ≤ 0x0F
  · rw [execLdF_of_digit hdigit] at h; cases h; exact .inr ⟨hdigit, rfl⟩
  · rw [execLdF_of_beyond hdigit] at h; cases h; exact .inl rfl

theorem execLdVxK_cases {x : Reg} (h : execLdVxK x s = .next t) :
    t = s.rewindPc ∨ ∃ b, t = s.setV x b := by
  unfold execLdVxK at h
  split at h
  · cases h; exact .inr ⟨_, rfl⟩
  · cases h; exact .inl rfl

/-! The frame of every instruction -/

/-- A field outside the classes an instruction is in stays as it was. The registers are left open here. -/
theorem exec_frame {i : Instr} (h : exec i s = .next t) :
    t = { s with
      v        := t.v
      pc       := if movesPc i then t.pc else s.pc
      i        := if writesIndex i then t.i else s.i
      stack    := if usesStack i then t.stack else s.stack
      sp       := if usesStack i then t.sp else s.sp
      status   := if usesStack i then t.status else s.status
      mem      := if writesMemory i then t.mem else s.mem
      fb       := if writesScreen i then t.fb else s.fb
      out      := if writesScreen i then t.out else s.out
      dt       := if writesDT i then t.dt else s.dt
      st       := if writesST i then t.st else s.st
      rndQueue := if usesRandom i then t.rndQueue else s.rndQueue
      draws    := if usesRandom i then t.draws else s.draws } := by
  cases i with
  | call nnn => obtain ⟨p, stk, n, c, rfl⟩ := execCall_frame h; rfl
  | ret => obtain ⟨p, n, c, rfl⟩ := execRet_frame h; rfl
  | seImm | sneImm | seReg | sneReg | skp | sknp =>
    cases h
    obtain ⟨p, hskip⟩ := State.skipIf_frame s _
    rw [hskip]; rfl
  | ldF x => obtain rfl | ⟨-, rfl⟩ := execLdF_cases h <;> rfl
  | ldVxK x => obtain rfl | ⟨b, rfl⟩ := execLdVxK_cases h <;> rfl
  | drw x y n => obtain ⟨-, rfl⟩ := accessing_next.mp h; rfl
  | ldB x => obtain ⟨-, rfl⟩ := accessing_next.mp h; rfl
  | store x | load x =>
    obtain ⟨-, rfl⟩ := accessing_next.mp h
    rw [State.advanceI_frame]; rfl
  | sys | unrecognised | cls | jp | jpV0 | ldI | addI | ldImm | addImm | ldReg | orReg | andReg | xorReg
  | addReg | subReg | shrReg | subnReg | shlReg | rnd | ldVxDT | ldDTVx | ldSTVx => cases h; rfl

theorem exec_cfg {i : Instr} (h : exec i s = .next t) : t.cfg = s.cfg := by rw [exec_frame h]

theorem exec_quirks {i : Instr} (h : exec i s = .next t) : t.quirks = s.quirks := by rw [exec_frame h]

theorem exec_i {i : Instr} (h : exec i s = .next t) (hi : writesIndex i = false) : t.i = s.i := by
  rw [exec_frame h]
  simp [hi]

theorem exec_mem {i : Instr} (h : exec i s = .next t) (hi : writesMemory i = false) : t.mem = s.mem := by
  rw [exec_frame h]
  simp [hi]

/-! Registers and flag (10_state.md R11) -/

theorem State.getV_setV_self {x : Reg} {b : Byte} : (s.setV x b).getV x = b := by
  simp

theorem State.getV_setV_of_ne {x k : Reg} {b : Byte} (h : k ≠ x) : (s.setV x b).getV k = s.getV k := by
  simp [h]

theorem State.getV_setVFlag_of_ne {x k : Reg} {r f : Byte} (hx : k ≠ x) (hf : k ≠ VF) :
    (s.setVFlag x r f).getV k = s.getV k := by
  simp [hx, hf]

/-- FX65 leaves the registers above X as they were (42_index_memory.md R125). -/
theorem State.getV_setRegs_of_le {bs : List Byte} (h : bs.length ≤ 16) {k : Reg} (hk : bs.length ≤ k.toNat) :
    (s.setRegs bs).getV k = s.getV k := by
  rw [State.getV_setRegs s bs h, if_neg (by omega)]

/-- A register that is neither a destination nor written as the flag stays as it was. -/
theorem exec_getV {i : Instr} (h : exec i s = .next t) {k : Reg} (hdest : isDestination i k = false)
    (hflag : k = VF → isFlagWriter i = false) : t.getV k = s.getV k := by
  cases i with
  | call nnn => obtain ⟨p, stk, n, c, rfl⟩ := execCall_frame h; rfl
  | ret => obtain ⟨p, n, c, rfl⟩ := execRet_frame h; rfl
  | seImm | sneImm | seReg | sneReg | skp | sknp => cases h; exact State.getV_congr s (by simp) k
  | ldF x => obtain rfl | ⟨-, rfl⟩ := execLdF_cases h <;> rfl
  | ldB x => obtain ⟨-, rfl⟩ := accessing_next.mp h; rfl
  | store x => obtain ⟨-, rfl⟩ := accessing_next.mp h; exact State.getV_advanceI _ x k
  | load x =>
    obtain ⟨-, rfl⟩ := accessing_next.mp h
    have hk : x.toNat < k.toNat := by simpa [isDestination] using hdest
    rw [State.getV_advanceI]
    exact State.getV_setRegs_of_le (by simp; omega) (by simpa using hk)
  | drw x y n =>
    obtain ⟨-, rfl⟩ := accessing_next.mp h
    exact State.getV_setV_of_ne fun hvf => nomatch hflag hvf
  | addI x =>
    cases h
    exact State.getV_setV_of_ne fun hvf => nomatch hflag hvf
  | ldVxK x =>
    have hk : k ≠ x := by simpa [isDestination] using hdest
    obtain rfl | ⟨b, rfl⟩ := execLdVxK_cases h
    · rfl
    · exact State.getV_setV_of_ne hk
  | ldImm x | addImm x | ldReg x | orReg x | andReg x | xorReg x | rnd x | ldVxDT x =>
    cases h
    exact State.getV_setV_of_ne (by simpa [isDestination] using hdest)
  | addReg x y | subReg x y | shrReg x y | subnReg x y | shlReg x y =>
    cases h
    exact State.getV_setVFlag_of_ne (by simpa [isDestination] using hdest) fun hvf => nomatch hflag hvf
  | sys | unrecognised | cls | jp | jpV0 | ldI | ldDTVx | ldSTVx => cases h; rfl

theorem flagByte_eq_zero_or_one (b : Bool) : flagByte b = 0 ∨ flagByte b = 1 := by
  cases b
  · exact .inl rfl
  · exact .inr rfl

/-- A flag writer leaves a flag in VF, whatever its destination is (decision D11). -/
theorem exec_flag {i : Instr} (h : exec i s = .next t) (hw : isFlagWriter i = true) :
    ∃ b, t.getV VF = flagByte b := by
  cases i with
  | addReg x y | subReg x y | shrReg x y | subnReg x y | shlReg x y =>
    cases h
    exact ⟨_, State.getV_setV_self⟩
  | addI x => cases h; exact ⟨_, State.getV_setV_self⟩
  | drw x y n => obtain ⟨-, rfl⟩ := accessing_next.mp h; exact ⟨_, State.getV_setV_self⟩
  | _ => exact nomatch hw

end Sys2Proof.Machine
end

section
/-! What one step does to the parameters, the quirk flags and I: only an instruction and a reset can
change any of them. -/

namespace Sys2Proof.Machine

open Sys2Proof.Spec

variable {s t : State}

theorem cpuStep_cases (h : cpuStep s = .next t) :
    ∃ op, s.fetch = some op ∧ exec (decodeWord op) s.advancePc = .next t := by
  cases hf : s.fetch with
  | none => rw [cpuStep_of_fetch_none hf] at h; cases h
  | some op => exact ⟨op, rfl, cpuStep_of_fetch hf ▸ h⟩

theorem cpuStep_config (h : cpuStep s = .next t) : t.cfg = s.cfg ∧ t.quirks = s.quirks := by
  obtain ⟨op, -, hexec⟩ := cpuStep_cases h
  exact ⟨exec_cfg (s := s.advancePc) hexec, exec_quirks (s := s.advancePc) hexec⟩

/-- The parameters, the quirk flags and I are as they were. -/
abbrev State.SameConfigAndIndex (s t : State) : Prop := t.cfg = s.cfg ∧ t.quirks = s.quirks ∧ t.i = s.i

/-- A queued event runs an instruction, or leaves parameters, quirk flags and I alone, or resets the
machine. -/
theorem fire_config_cases {e : Event} (h : fire e s = .next t) :
    cpuStep s = .next t ∨ s.SameConfigAndIndex t ∨
    ∃ rom now, e = .host (.reset rom now) ∧ t = s.resetSequence rom now := by
  rcases fire_cases h with rfl | ⟨-, -, -, hcpu⟩ | ⟨-, -, rfl⟩ | ⟨-, -, rfl⟩ | ⟨-, now, -, rfl⟩ |
    ⟨levels, -, rfl⟩ | ⟨levels, -, rfl⟩ | ⟨bytes, -, rfl⟩ | ⟨-, level, -, rfl⟩ | ⟨-, -, -, hcpu⟩ |
    ⟨-, rfl⟩ | ⟨rom, now, he, -, rfl⟩
  any_goals exact .inr (.inl ⟨rfl, rfl, rfl⟩)
  · exact .inl hcpu
  · exact .inl hcpu
  · exact .inr (.inr ⟨rom, now, he, rfl⟩)

/-- A step does the same, with the event it takes off the agenda. -/
theorem step_config_cases (h : step s = .next t) :
    (∃ rest, cpuStep { s with agenda := rest } = .next t) ∨ s.SameConfigAndIndex t ∨
    ∃ rom now rest, s.agenda = .host (.reset rom now) :: rest ∧
      t = { s with agenda := rest }.resetSequence rom now := by
  obtain ⟨-, -, -, hcpu⟩ | ⟨-, -, -, rfl⟩ | ⟨e, rest, ha, hfire⟩ := step_cases h
  · exact .inl ⟨s.agenda, hcpu⟩
  · exact .inr (.inl ⟨rfl, rfl, rfl⟩)
  · obtain hcpu | hsame | ⟨rom, now, rfl, rfl⟩ := fire_config_cases hfire
    · exact .inl ⟨rest, hcpu⟩
    · exact .inr (.inl hsame)
    · exact .inr (.inr ⟨rom, now, rest, ha, rfl⟩)

/-! The bound on I (10_state.md R15; decision D8) -/

theorem State.IndexBound.of_le (h : s.i.toNat ≤ 0x1000) : s.IndexBound := fun _ => h

theorem State.IndexBound.congr (hi : s.IndexBound) (hcfg : t.cfg = s.cfg) (h : t.i = s.i) :
    t.IndexBound := by
  unfold State.IndexBound
  rwa [hcfg, h]

theorem zext16_toNat_lt (nnn : Addr12) : (zext16 nnn).toNat < 0x1000 := by
  unfold zext16
  rw [BitVec.toNat_setWidth_of_le (by decide)]
  exact nnn.isLt

theorem addIResult_toNat_lt {trunc12 : Bool} (h : trunc12 = true) (i : Word) (x : Byte) :
    (addIResult trunc12 i x).toNat < 0x1000 := by
  simp only [addIResult, if_pos h, BitVec.toNat_ofNat]
  omega

/-- Every glyph lies below the program (20_memory.md R42). -/
theorem fontAddr_toNat_lt {c : Config} (hc : c.Legal) {d : Byte} (hd : d.toNat ≤ 0x0F) :
    (fontAddr c d).toNat < progBase := by
  obtain ⟨-, -, hbase, -, -⟩ := hc
  simp only [fontAddr, BitVec.toNat_ofNat]
  exact (Nat.mod_le _ _).trans_lt (by omega)

/-- The advance of FX55 and FX65 ends at most one past the last byte of memory (R124, R125). -/
theorem State.indexBound_advanceI {x : Reg} (hfit : s.i.toNat + (x.toNat + 1) ≤ memSize) :
    (s.advanceI x).IndexBound := by
  refine .of_le ?_
  simp only [memSize] at hfit
  rw [State.toNat_i_advanceI s x (by omega)]
  split <;> omega

/-- Every instruction keeps the bound: the five that write I one by one. -/
theorem exec_indexBound (hc : s.cfg.Legal) (hi : s.IndexBound) {i : Instr} (h : exec i s = .next t) :
    t.IndexBound := by
  cases i with
  | ldI nnn => cases h; exact .of_le (zext16_toNat_lt nnn).le
  | addI x =>
    cases h
    exact fun htrunc => (addIResult_toNat_lt htrunc s.i (s.getV x)).le
  | ldF x =>
    obtain rfl | ⟨hdigit, rfl⟩ := execLdF_cases h
    · exact hi
    · exact .of_le ((fontAddr_toNat_lt hc hdigit).le.trans (by decide))
  | store x =>
    obtain ⟨hfit, rfl⟩ := accessing_next_fits h
    exact State.indexBound_advanceI (s := s.putBytes _ _) hfit
  | load x =>
    obtain ⟨hfit, rfl⟩ := accessing_next_fits h
    exact State.indexBound_advanceI (s := s.setRegs _) hfit
  | _ => exact hi.congr (exec_cfg h) (exec_i h rfl)

theorem cpuStep_indexBound (hc : s.cfg.Legal) (hi : s.IndexBound) (h : cpuStep s = .next t) :
    t.IndexBound := by
  obtain ⟨op, -, hexec⟩ := cpuStep_cases h
  exact exec_indexBound (s := s.advancePc) hc hi hexec

theorem step_indexBound (hc : s.cfg.Legal) (hi : s.IndexBound) (h : step s = .next t) :
    t.IndexBound := by
  obtain ⟨rest, hcpu⟩ | ⟨hcfg, -, hsame⟩ | ⟨rom, now, rest, -, rfl⟩ := step_config_cases h
  · exact cpuStep_indexBound (s := { s with agenda := rest }) hc hi hcpu
  · exact hi.congr hcfg hsame
  · exact .of_le (Nat.zero_le _)

end Sys2Proof.Machine
end

section
/-! Nested calls (10_state.md R16, R17). -/

namespace Sys2Proof.Machine

open Sys2Proof.Spec

variable {s t : State}

/-- One more nested call is a CALL after the others. -/
theorem callTimes_succ {nnn : Addr12} {n : Nat} (h : callTimes nnn n s = .next t) :
    callTimes nnn (n + 1) s = exec (.call nnn) t := by
  induction n generalizing s with
  | zero =>
    cases h
    unfold callTimes
    cases exec (.call nnn) t <;> rfl
  | succ n ih =>
    unfold callTimes at h ⊢
    cases hcall : exec (.call nnn) s with
    | next u => rw [hcall] at h; exact ih h
    | fault f => rw [hcall] at h; cases h
    | refused r => rw [hcall] at h; cases h

/-- As many nested calls as there are free entries succeed, each taking one. -/
theorem callTimes_of_room (nnn : Addr12) {n : Nat} (h : s.sp + n ≤ s.cfg.stackCap.size) :
    ∃ t, callTimes nnn n s = .next t ∧ t.sp = s.sp + n ∧ t.status = s.status ∧ t.cfg = s.cfg := by
  induction n with
  | zero => exact ⟨s, rfl, rfl, rfl, rfl⟩
  | succ n ih =>
    obtain ⟨u, hu, hsp, hstatus, hcfg⟩ := ih (by omega)
    have hroom : u.sp ≠ u.cfg.stackCap.size := by rw [hsp, hcfg]; omega
    refine ⟨_, (callTimes_succ hu).trans (execCall_of_room u hroom), ?_, hstatus, hcfg⟩
    exact congrArg (· + 1) hsp

end Sys2Proof.Machine
end

section
/-! Key levels (10_state.md R31): every operation but the key lookups commutes with a change of the key
inputs, so every instruction that reads no key does. -/

namespace Sys2Proof.Machine

open Sys2Proof.Spec

/-- The state with the key inputs at the given levels. -/
def State.withKeys (s : State) (levels : BitVec 16) : State := { s with keys := levels }

/-- The outcome with the key inputs at the given levels. -/
def withKeys (levels : BitVec 16) : Result → Result
  | .next t    => .next (t.withKeys levels)
  | .fault f   => .fault f
  | .refused r => .refused r

variable (s : State) (levels : BitVec 16)

theorem accessing_withKeys (base n : Nat) :
    accessing base n (s.withKeys levels) = withKeys levels (accessing base n s) := by
  unfold accessing
  split <;> rfl

theorem State.skipIf_withKeys (cond : Bool) :
    (s.withKeys levels).skipIf cond = (s.skipIf cond).withKeys levels := by
  unfold State.skipIf
  split <;> rfl

theorem State.advanceI_of_quirk {s : State} {x : Reg} (h : s.quirks.loadStore = true) :
    s.advanceI x = s.setI (BitVec.ofNat 16 (s.base + x.toNat + 1)) := if_pos h

theorem State.advanceI_of_no_quirk {s : State} {x : Reg} (h : ¬ s.quirks.loadStore = true) :
    s.advanceI x = s := if_neg h

theorem State.advanceI_withKeys (x : Reg) :
    (s.withKeys levels).advanceI x = (s.advanceI x).withKeys levels := by
  by_cases hq : s.quirks.loadStore = true
  · rw [State.advanceI_of_quirk hq]; exact State.advanceI_of_quirk hq
  · rw [State.advanceI_of_no_quirk hq]; exact State.advanceI_of_no_quirk hq

theorem execCall_withKeys (nnn : Addr12) :
    execCall nnn (s.withKeys levels) = withKeys levels (execCall nnn s) := by
  by_cases hfull : s.sp = s.cfg.stackCap.size
  · rw [execCall_of_full s hfull]; exact execCall_of_full _ hfull
  · rw [execCall_of_room s hfull]; exact execCall_of_room _ hfull

theorem execRet_withKeys : execRet (s.withKeys levels) = withKeys levels (execRet s) := by
  by_cases hempty : s.sp = 0
  · rw [execRet_of_empty s hempty]; exact execRet_of_empty _ hempty
  · rw [execRet_of_entries s hempty]; exact execRet_of_entries _ hempty

theorem execLdF_withKeys (x : Reg) : execLdF x (s.withKeys levels) = withKeys levels (execLdF x s) := by
  by_cases hdigit : (s.getV x).toNat ≤ 0x0F
  · rw [execLdF_of_digit hdigit]; exact execLdF_of_digit hdigit
  · rw [execLdF_of_beyond hdigit]; exact execLdF_of_beyond hdigit

theorem execStore_withKeys (x : Reg) : execStore x (s.withKeys levels) = withKeys levels (execStore x s) := by
  refine Eq.trans ?_ (accessing_withKeys _ levels _ _)
  exact congrArg (accessing _ _) (State.advanceI_withKeys (s.putBytes _ _) levels x)

theorem execLoad_withKeys (x : Reg) : execLoad x (s.withKeys levels) = withKeys levels (execLoad x s) := by
  refine Eq.trans ?_ (accessing_withKeys _ levels _ _)
  exact congrArg (accessing _ _) (State.advanceI_withKeys (s.setRegs _) levels x)

/-- An instruction that reads no key does the same with any key levels. -/
theorem exec_withKeys {i : Instr} (hk : readsKeys i = false) :
    exec i (s.withKeys levels) = withKeys levels (exec i s) := by
  cases i with
  | skp | sknp | ldVxK => exact nomatch hk
  | call nnn => exact execCall_withKeys s levels nnn
  | ret => exact execRet_withKeys s levels
  | ldF x => exact execLdF_withKeys s levels x
  | seImm | sneImm | seReg | sneReg => exact congrArg Host.Outcome.next (State.skipIf_withKeys s levels _)
  | drw | ldB => refine Eq.trans ?_ (accessing_withKeys _ levels _ _); rfl
  | store x => exact execStore_withKeys s levels x
  | load x => exact execLoad_withKeys s levels x
  | sys | unrecognised | cls | jp | jpV0 | ldI | addI | ldImm | addImm | ldReg | orReg | andReg | xorReg
  | addReg | subReg | shrReg | subnReg | shlReg | rnd | ldVxDT | ldDTVx | ldSTVx => rfl

end Sys2Proof.Machine
end

section
/-! The reset state (10_state.md R33). -/

namespace Sys2Proof.Machine

@[simp] theorem State.getV_reset (k : Reg) : State.reset.getV k = 0 := by
  simp [State.getV, State.reset]

/-- The memory of the reset state lists nothing. -/
theorem State.byteAt_reset (a : Nat) : State.reset.byteAt a = unlistedByte Config.default a := rfl

/-- The reset contents hold the font at its base (20_memory.md R43). -/
theorem unlistedByte_font (c : Config) {k : Nat} (h : k < 80) :
    unlistedByte c (c.fontBase + k) = c.font[k] := by
  simp [unlistedByte, h]

/-- The reset contents are 0 beside the font (10_state.md R33). -/
theorem unlistedByte_of_not_font (c : Config) {a : Nat} (h : a < c.fontBase ∨ c.fontBase + 80 ≤ a) :
    unlistedByte c a = 0 := by
  unfold unlistedByte
  split
  · rw [Vector.getElem?_eq_none (by omega)]; rfl
  · rfl

theorem Config.default_legal : Config.default.Legal := by
  decide

theorem State.reset_legal : State.reset.Legal :=
  ⟨Config.default_legal, Memory.wf_nil _, List.length_replicate, Nat.zero_le _,
    Framebuffer.shaped_blank _ _⟩

end Sys2Proof.Machine
end

section
/-! The statements of the family 10_state.md, each from the lemmas above. -/

namespace Sys2Proof.Spec

open Sys2Proof.Machine

/-- Settles O55, from the bound kept by the instructions that write I and by the reset. -/
theorem stepKeepsIndexBound : Obligations.StepKeepsIndexBound := by
  unfold Obligations.StepKeepsIndexBound
  intro s t hc hi h
  exact step_indexBound hc hi h

/-- Settles O17: the CALL leaves PC in the entry below the new SP, which is the entry RET reads. -/
theorem returnUndoesCall : Obligations.ReturnUndoesCall := by
  unfold Obligations.ReturnUndoesCall
  intro s nnn hlen hroom
  refine ⟨_, execCall_of_room s hroom.ne, fun t' hsp hbelow => ?_⟩
  simp only at hsp hbelow
  have hentry (k : Nat) (hk : k < s.sp + 1) :
      t'.stackEntry k = if k = s.sp then s.pc else s.stackEntry k :=
    (hbelow k hk).trans (stackEntry_set _ _ _ (hlen ▸ hroom) _)
  refine ⟨_, execRet_of_entries t' (by omega), ?_, by simp [hsp], fun k hk => ?_⟩
  · simp [hsp, hentry]
  · exact (hentry k (by omega)).trans (if_neg hk.ne)

/-- Settles O18: the free entries are used up one by one, and the CALL after the last one is fatal. -/
theorem nestedCallsFillTheStackExactly : Obligations.NestedCallsFillTheStackExactly := by
  unfold Obligations.NestedCallsFillTheStackExactly
  intro s nnn hsp
  refine ⟨fun n hn => ?_, ?_⟩
  · obtain ⟨t, ht, htsp, hstatus, -⟩ := callTimes_of_room nnn hn
    exact ⟨t, ht, htsp, hstatus⟩
  · obtain ⟨u, hu, husp, -, hcfg⟩ :=
      callTimes_of_room (s := s) nnn (n := s.cfg.stackCap.size - s.sp) (by omega)
    have hlast : u.sp = s.cfg.stackCap.size := by omega
    have hfull : u.sp = u.cfg.stackCap.size := hcfg ▸ hlast
    exact ⟨_, _, (callTimes_succ hu).trans (execCall_of_full u hfull), rfl, hlast⟩

/-- Settles O25, from the flag the seven instructions write and the registers the others leave. -/
theorem onlyFlagWritersTouchVF : Obligations.OnlyFlagWritersTouchVF := by
  unfold Obligations.OnlyFlagWritersTouchVF
  intro i s t h
  refine ⟨fun hw => ?_, fun hw hdest => exec_getV h hdest fun _ => hw⟩
  obtain ⟨b, hb⟩ := exec_flag h hw
  rw [hb]
  exact flagByte_eq_zero_or_one b

/-- Settles O56: an instruction writes neither, and no event but a reset does. -/
theorem configurationIsFixedUntilReset : Obligations.ConfigurationIsFixedUntilReset := by
  unfold Obligations.ConfigurationIsFixedUntilReset
  intro s t h
  obtain ⟨rest, hcpu⟩ | ⟨hcfg, hquirks, -⟩ | ⟨rom, now, rest, ha, rfl⟩ := step_config_cases h
  · obtain ⟨hcfg, hquirks⟩ := cpuStep_config hcpu
    exact ⟨hcfg, .inl hquirks⟩
  · exact ⟨hcfg, .inl hquirks⟩
  · exact ⟨rfl, .inr ⟨rom, now, rest, ha, rfl⟩⟩

/-- Settles O58, field by field from the frame of every instruction. -/
theorem eachStateIsWrittenOnlyByItsInstructions : Obligations.EachStateIsWrittenOnlyByItsInstructions := by
  unfold Obligations.EachStateIsWrittenOnlyByItsInstructions
  intro i s t h
  refine ⟨fun hi => ⟨exec_mem h hi, State.byteAt_congr s (exec_cfg h) (exec_mem h hi)⟩, ?_, ?_, exec_i h,
    ?_, ?_, ?_, ?_, fun k => exec_getV h, ?_⟩
  all_goals (rw [exec_frame h]; simp +contextual)

/-- Settles O59: the outcome with other key levels is the outcome with those levels put in. -/
theorem onlyKeyInstructionsReadKeys : Obligations.OnlyKeyInstructionsReadKeys := by
  unfold Obligations.OnlyKeyInstructionsReadKeys
  intro i s levels hk
  refine ⟨fun t h => ?_, fun r h => ?_⟩
  · exact (exec_withKeys s levels hk).trans (congrArg (withKeys levels) h)
  · exact (exec_withKeys s levels hk).trans (congrArg (withKeys levels) h)

/-- Settles O48: the registers and flags by definition, the memory by its reset contents. -/
theorem resetStateHasTheResetValues : Obligations.ResetStateHasTheResetValues := by
  unfold Obligations.ResetStateHasTheResetValues
  exact ⟨rfl, State.getV_reset, rfl, rfl, rfl, rfl, rfl, rfl, rfl, rfl, Framebuffer.cell_blank _ _,
    fun k hk => (State.byteAt_reset _).trans (unlistedByte_font Config.default hk),
    fun a ha => (State.byteAt_reset a).trans (unlistedByte_of_not_font Config.default ha)⟩

/-- Settles O54, from the legality of the default parameters; I is 0. -/
theorem resetStateIsLegal : Obligations.ResetStateIsLegal := by
  unfold Obligations.ResetStateIsLegal
  exact ⟨State.reset_legal, .of_le (Nat.zero_le _)⟩

end Sys2Proof.Spec
end

section
/-! Accesses and fetches (20_memory.md R46, R48, R50): which accesses complete, the halves of a fetched
opcode, and the bytes a store has reached. -/

namespace Sys2Proof.Machine

open Sys2Proof.Spec

variable {s t u : State}

/-! Accesses in range and out of range -/

theorem accessing_completes_iff {base n : Nat} :
    (∃ t, accessing base n u = .next t) ↔ inRange base n = true :=
  ⟨fun ⟨_, h⟩ => (accessing_next.mp h).1, fun h => ⟨u, accessing_inRange u h⟩⟩

/-- The last byte of an access of `k + 1` bytes is at `base + k`. -/
theorem inRange_succ_iff {base k : Nat} : inRange base (k + 1) = true ↔ base + k ≤ 0xFFF := by
  rw [inRange_iff]
  omega

theorem accessing_succ_completes_iff {base k : Nat} :
    (∃ t, accessing base (k + 1) u = .next t) ↔ base + k ≤ 0xFFF :=
  accessing_completes_iff.trans inRange_succ_iff

theorem accessing_succ_refused {base k : Nat} (h : base + k > 0xFFF) :
    accessing base (k + 1) u = .refused (.outOfRange (base + k)) :=
  accessing_outOfRange u (Bool.eq_false_iff.mpr fun hr => absurd (inRange_succ_iff.mp hr) (Nat.not_le.mpr h))

theorem inRange_sprite_iff {n : Nibble} : inRange s.base n.toNat = true ↔ SpriteInRange s n := by
  have hzero : n = 0 ↔ n.toNat = 0 := BitVec.toNat_inj.symm
  rw [inRange_iff, SpriteInRange, hzero, State.base]
  omega

/-! The halves of a fetched opcode -/

theorem composeWord_toNat (hi lo : Byte) : (composeWord hi lo).toNat = 256 * hi.toNat + lo.toNat :=
  (toNat_append hi lo).trans (by omega)

theorem composeWord_toNat_div (hi lo : Byte) : (composeWord hi lo).toNat / 256 = hi.toNat := by
  have := lo.isLt
  rw [composeWord_toNat]
  omega

theorem composeWord_toNat_mod (hi lo : Byte) : (composeWord hi lo).toNat % 256 = lo.toNat := by
  have := lo.isLt
  rw [composeWord_toNat]
  omega

theorem State.fetch_of_le (h : s.pc.toNat ≤ 0xFFE) :
    s.fetch = some (composeWord (s.byteAt s.pc.toNat) (s.byteAt (s.pc.toNat + 1))) :=
  State.memRead2_some s _ h

theorem State.fetch_of_gt (h : s.pc.toNat > 0xFFE) : s.fetch = none := State.memRead2_none s _ h

/-! The bytes a store has reached, and the others -/

theorem State.byteAt_putBytes_within {base k : Nat} {bs : List Byte} (h : k < bs.length) :
    (s.putBytes base bs).byteAt (base + k) = bs.getD k 0 := by
  rw [State.byteAt_putBytes, if_pos (by omega), Nat.add_sub_cancel_left]

theorem State.byteAt_putBytes_beyond {base a : Nat} {bs : List Byte} (h : a < base ∨ base + bs.length ≤ a) :
    (s.putBytes base bs).byteAt a = s.byteAt a := by
  rw [State.byteAt_putBytes, if_neg (by omega)]

/-- A fetch at the same PC from memory as a store at I left it sees the bytes stored (R57). -/
theorem fetchSeesStore_of_putBytes {bs : List Byte} {stored : Nat → Nat} (hfetch : s.pc.toNat ≤ 0xFFE)
    (hpc : t.pc = s.pc) (hbytes : SameBytes (s.putBytes s.base bs) t)
    (hstored : ∀ k < bs.length, (bs.getD k 0).toNat = stored k) :
    FetchSeesStore s t bs.length stored := by
  have hreached (k : Nat) (hk : k < bs.length) : (t.byteAt (s.i.toNat + k)).toNat = stored k := by
    rw [hbytes, ← hstored k hk]
    exact congrArg _ (State.byteAt_putBytes_within hk)
  have hkept (a : Nat) (ha : a < s.i.toNat ∨ s.i.toNat + bs.length ≤ a) : t.byteAt a = s.byteAt a :=
    (hbytes a).trans (State.byteAt_putBytes_beyond ha)
  refine ⟨_, State.fetch_of_le (hpc ▸ hfetch), fun k hk => ⟨fun h => ?_, fun h => ?_⟩,
    fun h => ?_, fun h => ?_⟩
  · rw [composeWord_toNat_div, hpc, h, hreached k hk]
  · rw [composeWord_toNat_mod, hpc, h, hreached k hk]
  · rw [composeWord_toNat_div, hpc, hkept _ h]
  · rw [composeWord_toNat_mod, hpc, hkept _ h]

end Sys2Proof.Machine
end

section
/-! The statements of the family 20_memory.md, each from the lemmas above. -/

namespace Sys2Proof.Spec

open Sys2Proof.Machine

/-- Settles O34: the four instructions complete exactly when their access is in range. -/
theorem outOfRangeAccessIsRefused : Obligations.OutOfRangeAccessIsRefused := by
  unfold Obligations.OutOfRangeAccessIsRefused
  intro s x y n
  refine ⟨accessing_succ_completes_iff (k := 2), accessing_succ_refused (k := 2),
    accessing_succ_completes_iff, accessing_succ_completes_iff,
    fun h => ⟨accessing_succ_refused h, accessing_succ_refused h⟩,
    accessing_completes_iff.trans inRange_sprite_iff, fun h => ?_,
    fun h => cpuStep_of_fetch_none (State.fetch_of_gt h)⟩
  exact accessing_outOfRange _ (Bool.eq_false_iff.mpr (h ∘ inRange_sprite_iff.mp))

/-- Settles O35: FX55 and FX33 leave PC, and memory as their list of bytes at I leaves it. -/
theorem storeIsSeenByNextFetch : Obligations.StoreIsSeenByNextFetch := by
  unfold Obligations.StoreIsSeenByNextFetch
  intro s x hfetch
  refine ⟨fun h => ⟨_, accessing_inRange _ (inRange_succ_iff.mpr h), ?_⟩,
    fun h => ⟨_, accessing_inRange _ (inRange_succ_iff.mpr h), ?_⟩⟩
  · have hstored (k : Nat) (hk : k < (s.regsUpTo x).length) :
        ((s.regsUpTo x).getD k 0).toNat = (s.getV (BitVec.ofNat 4 k)).toNat := by
      rw [State.regsUpTo_length] at hk
      rw [State.regsUpTo_getD s x (Nat.le_of_lt_succ hk)]
    have hsees := fetchSeesStore_of_putBytes hfetch (State.advanceI_pc (s.putBytes _ _) x)
      (State.byteAt_advanceI _ x) hstored
    rwa [State.regsUpTo_length] at hsees
  · exact fetchSeesStore_of_putBytes (bs := bcdDigits (s.getV x)) hfetch rfl (fun _ => rfl)
      (fun _ => bcdDigits_toNat _)

/-- Settles O6, from the halves of the word two bytes compose. -/
theorem fetchIsBigEndian : Obligations.FetchIsBigEndian := by
  unfold Obligations.FetchIsBigEndian
  intro s
  refine ⟨fun h => ⟨_, State.fetch_of_le h, composeWord_toNat _ _⟩,
    fun a b h => ⟨_, State.memRead2_some _ a h, ?_⟩, fun a b h => ⟨_, State.memRead2_some _ a h, ?_⟩⟩
  · rw [composeWord_toNat_div, State.byteAt_putByte, if_pos rfl]
  · rw [composeWord_toNat_mod, State.byteAt_putByte, if_pos rfl]

/-- Settles O49: the reset event is the step, and it refuses an image that does not fit. -/
theorem oversizedImageIsRefused : Obligations.OversizedImageIsRefused := by
  unfold Obligations.OversizedImageIsRefused
  intro s rom now rest hagenda hlen
  exact (step_of_agenda hagenda).trans (if_neg (Nat.not_le.mpr hlen))

end Sys2Proof.Spec
end

section
/-! The decoder and the encoder (30_encoding.md R61 to R68): the unrecognised space in the fields of the
word, the word of a decoded instruction, and the instruction of an encoded word. -/

namespace Sys2Proof

variable (op : Word)

/-! The unrecognised space of R67 -/

theorem isUnrecognised_iff :
    isUnrecognised op = true ↔
      (op.toNat / 4096 = 0x8 ∧ op.toNat % 16 ∈ [0x8, 0x9, 0xA, 0xB, 0xC, 0xD, 0xF]) ∨
      (op.toNat / 4096 = 0xE ∧ op.toNat % 256 ∉ [0x9E, 0xA1]) ∨
      (op.toNat / 4096 = 0xF ∧
        op.toNat % 256 ∉ [0x07, 0x0A, 0x15, 0x18, 0x1E, 0x29, 0x33, 0x55, 0x65]) := by
  unfold isUnrecognised
  split
  · next h => simp [h]
  · next h => simp [h]
  · next h => simp [h]
  · next h8 hE hF =>
    refine iff_of_false nofun ?_
    rintro (⟨hf, -⟩ | ⟨hf, -⟩ | ⟨hf, -⟩)
    exacts [h8 hf, hE hf, hF hf]

/-- The unrecognised space by the selectors the decoder examines (R64). -/
theorem isUnrecognised_iff_fields :
    isUnrecognised op = true ↔
      (fieldF op = 0x8 ∧ fieldN op ∈ [0x8#4, 0x9#4, 0xA#4, 0xB#4, 0xC#4, 0xD#4, 0xF#4]) ∨
      (fieldF op = 0xE ∧ fieldNN op ∉ [0x9E#8, 0xA1#8]) ∨
      (fieldF op = 0xF ∧ fieldNN op ∉
        [0x07#8, 0x0A#8, 0x15#8, 0x18#8, 0x1E#8, 0x29#8, 0x33#8, 0x55#8, 0x65#8]) := by
  rw [isUnrecognised_iff]
  simp [BitVec.toNat_eq, fieldF_toNat, fieldN_toNat, fieldNN_toNat]

variable {op}

theorem decodeFamily8_of_unlisted
    (h : fieldN op ∈ [0x8#4, 0x9#4, 0xA#4, 0xB#4, 0xC#4, 0xD#4, 0xF#4]) :
    decodeFamily8 op = .unrecognised op := by
  unfold decodeFamily8
  split
  case h_10 => rfl
  all_goals next hn => rw [hn] at h; exact absurd h (by decide)

theorem decodeFamilyE_of_unlisted (h : fieldNN op ∉ [0x9E#8, 0xA1#8]) :
    decodeFamilyE op = .unrecognised op := by
  unfold decodeFamilyE
  split
  case h_3 => rfl
  all_goals next hnn => rw [hnn] at h; exact absurd (by decide) h

theorem decodeFamilyF_of_unlisted
    (h : fieldNN op ∉ [0x07#8, 0x0A#8, 0x15#8, 0x18#8, 0x1E#8, 0x29#8, 0x33#8, 0x55#8, 0x65#8]) :
    decodeFamilyF op = .unrecognised op := by
  unfold decodeFamilyF
  split
  case h_10 => rfl
  all_goals next hnn => rw [hnn] at h; exact absurd (by decide) h

theorem decodeWord_of_isUnrecognised (h : isUnrecognised op = true) :
    decodeWord op = .unrecognised op := by
  obtain ⟨hf, hn⟩ | ⟨hf, hnn⟩ | ⟨hf, hnn⟩ := (isUnrecognised_iff_fields op).mp h
  · simpa [decodeWord, hf] using decodeFamily8_of_unlisted hn
  · simpa [decodeWord, hf] using decodeFamilyE_of_unlisted hnn
  · simpa [decodeWord, hf] using decodeFamilyF_of_unlisted hnn

/-- Every word of family 0 that is not one of the two FIXED words is SYS (40_flow.md R80). -/
theorem decodeFamily0_of_ne (hcls : fieldNNN op ≠ 0x0E0#12) (hret : fieldNNN op ≠ 0x0EE#12) :
    decodeFamily0 op = .sys (fieldNNN op) := by
  unfold decodeFamily0
  split
  · next h => exact absurd h hcls
  · next h => exact absurd h hret
  · rfl

/-- The word of a well-formed instruction decodes to that instruction. -/
theorem decodeWord_encode {i : Instr} (h : i.wf = true) : decodeWord (encode i) = i := by
  cases i with
  | sys nnn =>
    simp only [Instr.wf, Bool.and_eq_true, bne_iff_ne] at h
    obtain ⟨hcls, hret⟩ := h
    have hsys := decodeFamily0_of_ne (op := packNNN 0x0 nnn) (by simpa using hcls) (by simpa using hret)
    simpa [encode, decodeWord] using hsys
  | unrecognised w => exact decodeWord_of_isUnrecognised h
  | cls | ret => rfl
  | ldReg | orReg | andReg | xorReg | addReg | subReg | shrReg | subnReg | shlReg =>
    simp [encode, decodeWord, decodeFamily8]
  | skp | sknp => simp [encode, decodeWord, decodeFamilyE]
  | ldVxDT | ldVxK | ldDTVx | ldSTVx | addI | ldF | ldB | store | load =>
    simp [encode, decodeWord, decodeFamilyF]
  | jp | call | seImm | sneImm | seReg | ldImm | addImm | sneReg | ldI | jpV0 | rnd | drw =>
    simp [encode, decodeWord]

/-! A word of a known family and selector is these packed with its other fields -/

section packed

variable {f : Nibble} (hf : fieldF op = f)
include hf

theorem packNNN_of_family : packNNN f (fieldNNN op) = op := hf ▸ packNNN_fields op

theorem packXNN_of_family : packXNN f (fieldX op) (fieldNN op) = op := hf ▸ packXNN_fields op

theorem packXYN_of_family : packXYN f (fieldX op) (fieldY op) (fieldN op) = op := hf ▸ packXYN_fields op

theorem packNNN_of_fixed {nnn : Addr12} (hnnn : fieldNNN op = nnn) : packNNN f nnn = op :=
  hnnn ▸ packNNN_of_family hf

theorem packXNN_of_selector {nn : Byte} (hnn : fieldNN op = nn) : packXNN f (fieldX op) nn = op :=
  hnn ▸ packXNN_of_family hf

theorem packXYN_of_selector {n : Nibble} (hn : fieldN op = n) :
    packXYN f (fieldX op) (fieldY op) n = op := hn ▸ packXYN_of_family hf

end packed

/-! Each family decodes to a well-formed instruction of that very word -/

theorem decodeFamily0_spec (hf : fieldF op = 0x0) :
    (decodeFamily0 op).wf = true ∧ encode (decodeFamily0 op) = op := by
  unfold decodeFamily0
  split
  · next h => exact ⟨rfl, packNNN_of_fixed hf h⟩
  · next h => exact ⟨rfl, packNNN_of_fixed hf h⟩
  · next hcls hret => exact ⟨by simpa [Instr.wf] using And.intro hcls hret, packNNN_of_family hf⟩

theorem decodeFamily8_spec (hf : fieldF op = 0x8) :
    (decodeFamily8 op).wf = true ∧ encode (decodeFamily8 op) = op := by
  unfold decodeFamily8
  split
  case h_10 =>
    refine ⟨(isUnrecognised_iff_fields op).mpr (.inl ⟨hf, ?_⟩), rfl⟩
    generalize fieldN op = n at *
    decide +revert
  all_goals next hn => exact ⟨rfl, packXYN_of_selector hf hn⟩

theorem decodeFamilyE_spec (hf : fieldF op = 0xE) :
    (decodeFamilyE op).wf = true ∧ encode (decodeFamilyE op) = op := by
  unfold decodeFamilyE
  split
  case h_3 =>
    refine ⟨(isUnrecognised_iff_fields op).mpr (.inr (.inl ⟨hf, ?_⟩)), rfl⟩
    simp only [List.mem_cons]
    tauto
  all_goals next hnn => exact ⟨rfl, packXNN_of_selector hf hnn⟩

theorem decodeFamilyF_spec (hf : fieldF op = 0xF) :
    (decodeFamilyF op).wf = true ∧ encode (decodeFamilyF op) = op := by
  unfold decodeFamilyF
  split
  case h_10 =>
    refine ⟨(isUnrecognised_iff_fields op).mpr (.inr (.inr ⟨hf, ?_⟩)), rfl⟩
    simp only [List.mem_cons]
    tauto
  all_goals next hnn => exact ⟨rfl, packXNN_of_selector hf hnn⟩

/-- Every word decodes to a well-formed instruction of that very word: no bit is dropped (R66, R71). -/
theorem decodeWord_spec (op : Word) : (decodeWord op).wf = true ∧ encode (decodeWord op) = op := by
  unfold decodeWord
  split
  case h_1 hf => exact decodeFamily0_spec hf
  case h_9 hf => exact decodeFamily8_spec hf
  case h_15 hf => exact decodeFamilyE_spec hf
  case h_16 =>
    refine decodeFamilyF_spec ?_
    generalize fieldF op = f at *
    decide +revert
  case h_2 hf | h_3 hf | h_11 hf | h_12 hf => exact ⟨rfl, packNNN_of_family hf⟩
  case h_4 hf | h_5 hf | h_7 hf | h_8 hf | h_13 hf => exact ⟨rfl, packXNN_of_family hf⟩
  case h_6 hf | h_10 hf | h_14 hf => exact ⟨rfl, packXYN_of_family hf⟩

end Sys2Proof
end

section
/-! The opcode map (30_encoding.md R65 to R67): which row a word selects, and the words that select none. -/

namespace Sys2Proof

/-! A field of a masked word is the masked field -/

theorem fieldF_and (op mask : Word) : fieldF (op &&& mask) = fieldF op &&& fieldF mask :=
  BitVec.extractLsb'_and

theorem fieldN_and (op mask : Word) : fieldN (op &&& mask) = fieldN op &&& fieldN mask :=
  BitVec.extractLsb'_and

theorem fieldNN_and (op mask : Word) : fieldNN (op &&& mask) = fieldNN op &&& fieldNN mask :=
  BitVec.extractLsb'_and

variable {op : Word} {r r' : OpcodeRow}

/-! What the table says, row by row -/

/-- Every mask keeps the family, and in the families 8, E and F the selector too (R64). -/
theorem opcodeMap_mask_selectors : ∀ r ∈ opcodeMap, fieldF r.mask = BitVec.allOnes 4 ∧
    (fieldF r.value = 0x8 → fieldN r.mask = BitVec.allOnes 4) ∧
    (fieldF r.value = 0xE ∨ fieldF r.value = 0xF → fieldNN r.mask = BitVec.allOnes 8) := by decide

theorem opcodeMap_value_not_unrecognised : ∀ r ∈ opcodeMap, isUnrecognised r.value = false := by decide

theorem opcodeMap_fixed_value : ∀ r ∈ opcodeMap,
    r.mask = BitVec.allOnes 16 → r.value = 0x00E0 ∨ r.value = 0x00EE := by decide

/-- Two rows can match one word only where a FIXED row stands before row 1. -/
theorem opcodeMap_overlap : opcodeMap.Pairwise fun r r' =>
    r.value &&& r'.mask = r'.value &&& r.mask → r.mask = BitVec.allOnes 16 ∧ r'.number = 1 := by decide

/-! The row a word selects -/

theorem overlap_of_match (h : op &&& r.mask = r.value) (h' : op &&& r'.mask = r'.value) :
    r.value &&& r'.mask = r'.value &&& r.mask := by
  rw [← h, ← h', BitVec.and_assoc, BitVec.and_assoc, BitVec.and_comm r.mask]

theorem fixed_of_match (hmem : r ∈ opcodeMap) (hmask : r.mask = BitVec.allOnes 16)
    (hmatch : op &&& r.mask = r.value) : op = 0x00E0 ∨ op = 0x00EE := by
  rw [hmask, BitVec.and_allOnes] at hmatch
  rw [hmatch]
  exact opcodeMap_fixed_value r hmem hmask

/-- The only match besides the first is row 1 after a FIXED row, so the word selects any other match. -/
theorem rowSelected_of_match (hmem : r ∈ opcodeMap) (hmatch : op &&& r.mask = r.value)
    (hfixed : r.number = 1 → op ≠ 0x00E0 ∧ op ≠ 0x00EE) : rowSelected op = r.number := by
  unfold rowSelected
  split
  case h_2 hnone => exact absurd (beq_iff_eq.mpr hmatch) (List.find?_eq_none.mp hnone r hmem)
  case h_1 top htop =>
    obtain ⟨htopMatch, before, after, hmap, hbefore⟩ := List.find?_eq_some_iff_append.mp htop
    have htopMatch := beq_iff_eq.mp htopMatch
    have hoverlap := opcodeMap_overlap
    rw [hmap] at hmem hoverlap
    obtain ⟨-, hlater, -⟩ := List.pairwise_append.mp hoverlap
    obtain hr | hr := List.mem_append.mp hmem
    · simpa [hmatch] using hbefore r hr
    obtain rfl | hr := List.mem_cons.mp hr
    · rfl
    · obtain ⟨hmask, hone⟩ := List.rel_of_pairwise_cons hlater hr (overlap_of_match htopMatch hmatch)
      obtain ⟨hcls, hret⟩ := hfixed hone
      obtain hop | hop := fixed_of_match (List.mem_of_find?_eq_some htop) hmask htopMatch
      · exact absurd hop hcls
      · exact absurd hop hret

/-- A row that matched an unrecognised word would have an unrecognised value. -/
theorem isUnrecognised_value_of_match (hmem : r ∈ opcodeMap) (hmatch : op &&& r.mask = r.value)
    (h : isUnrecognised op = true) : isUnrecognised r.value = true := by
  obtain ⟨hmF, hmN, hmNN⟩ := opcodeMap_mask_selectors r hmem
  have hF : fieldF r.value = fieldF op := by rw [← hmatch, fieldF_and, hmF, BitVec.and_allOnes]
  have hN (hf : fieldF op = 0x8) : fieldN r.value = fieldN op := by
    rw [← hmatch, fieldN_and, hmN (hF.trans hf), BitVec.and_allOnes]
  have hNN (hf : fieldF op = 0xE ∨ fieldF op = 0xF) : fieldNN r.value = fieldNN op := by
    rw [← hmatch, fieldNN_and, hmNN (hF ▸ hf), BitVec.and_allOnes]
  rw [isUnrecognised_iff_fields] at h ⊢
  obtain ⟨hf, hn⟩ | ⟨hf, hnn⟩ | ⟨hf, hnn⟩ := h
  · exact .inl ⟨hF.trans hf, hN hf ▸ hn⟩
  · exact .inr (.inl ⟨hF.trans hf, hNN (.inl hf) ▸ hnn⟩)
  · exact .inr (.inr ⟨hF.trans hf, hNN (.inr hf) ▸ hnn⟩)

theorem rowSelected_of_isUnrecognised (h : isUnrecognised op = true) : rowSelected op = 36 := by
  have hnone : opcodeMap.find? (fun r => op &&& r.mask == r.value) = none := by
    refine List.find?_eq_none.mpr fun r hmem hmatch => ?_
    have hvalue := isUnrecognised_value_of_match hmem (beq_iff_eq.mp hmatch) h
    exact absurd hvalue (by simp [opcodeMap_value_not_unrecognised r hmem])
  simp only [rowSelected, hnone]

/-! The row of an encoded instruction -/

theorem Instr.row_le_or_unrecognised (i : Instr) : i.row ≤ 35 ∨ ∃ w, i = .unrecognised w := by
  cases i <;> simp [Instr.row]

/-- Every instruction's word matches the instruction's own row. -/
theorem rowMatch (i : Instr) : Laws.RowMatch.Statement i := by
  open Laws.RowMatch in
  cases i
  exacts [sys _, cls, ret, jp _, call _, seImm _ _, sneImm _ _, seReg _ _ _, ldImm _ _, addImm _ _,
    ldReg _ _, orReg _ _, andReg _ _, xorReg _ _, addReg _ _, subReg _ _, shrReg _ _, subnReg _ _,
    shlReg _ _, sneReg _ _ _, ldI _, jpV0 _, rnd _ _, drw _ _ _, skp _, sknp _, ldVxDT _, ldVxK _,
    ldDTVx _, ldSTVx _, addI _, ldF _, ldB _, store _, load _, unrecognised _]

/-- The word of a well-formed instruction selects the instruction's own row. -/
theorem rowSelected_encode {i : Instr} (h : i.wf = true) : rowSelected (encode i) = i.row := by
  obtain hrow | ⟨w, rfl⟩ := i.row_le_or_unrecognised
  · obtain ⟨r, hmem, hnumber, hmatch⟩ := rowMatch i h hrow
    have hi := decodeWord_encode h
    rw [← hnumber]
    refine rowSelected_of_match hmem hmatch fun hone => ⟨fun hop => ?_, fun hop => ?_⟩
    all_goals
      rw [hop] at hi
      subst hi
      exact absurd (hnumber.symm.trans hone) (by decide)
  · exact rowSelected_of_isUnrecognised h

/-- SYS is every word of family 0 but the two FIXED words (40_flow.md R80). -/
theorem decodeWord_eq_sys_iff (op : Word) :
    (∃ nnn, decodeWord op = .sys nnn) ↔ fieldF op = 0x0 ∧ op ≠ 0x00E0 ∧ op ≠ 0x00EE := by
  constructor
  · rintro ⟨nnn, h⟩
    refine ⟨?_, fun hop => ?_, fun hop => ?_⟩
    · obtain ⟨-, hop⟩ := decodeWord_spec op
      rw [← hop, h]
      exact fieldF_packNNN 0x0 nnn
    · rw [hop] at h; cases h
    · rw [hop] at h; cases h
  · rintro ⟨hf, hcls, hret⟩
    have hsys := decodeFamily0_of_ne (fun h => hcls (packNNN_of_fixed hf h).symm)
      (fun h => hret (packNNN_of_fixed hf h).symm)
    exact ⟨_, by simpa [decodeWord, hf] using hsys⟩

/-- The unrecognised instruction is decoded from the words of R67 only. -/
theorem decodeWord_eq_unrecognised_iff (op : Word) :
    decodeWord op = .unrecognised op ↔ isUnrecognised op = true := by
  refine ⟨fun h => ?_, decodeWord_of_isUnrecognised⟩
  obtain ⟨hwf, -⟩ := decodeWord_spec op
  rwa [h] at hwf

end Sys2Proof
end

section
/-! The step that runs a fetched opcode, and the opcode placed for it (30_encoding.md R60, R70). -/

namespace Sys2Proof.Machine

variable {s : State}

/-- A CPU step is next, with nothing queued or at the head of the agenda, and nothing gates it: the step
executes the fetched opcode with PC advanced and the event gone from the agenda. -/
theorem step_of_fetch {op : Word} (hfetch : s.fetch = some op) (hlive : s.live = true)
    (hpaused : s.paused = false) (hcpu : s.agenda = [] ∨ ∃ rest, s.agenda = .cpu :: rest) :
    step s = exec (decodeWord op) { s with pc := s.pc + 2, agenda := s.agenda.tail } := by
  obtain hnil | ⟨rest, hcons⟩ := hcpu
  · have hs : { s with agenda := s.agenda.tail } = s := by rw [hnil, List.tail_nil, ← hnil]
    calc step s = cpuStep s := step_of_cpuNext ⟨hnil, hlive, hpaused⟩
      _ = cpuStep { s with agenda := s.agenda.tail } := by rw [hs]
      _ = _ := cpuStep_of_fetch hfetch
  · calc step s = fire .cpu { s with agenda := s.agenda.tail } := by
            rw [hcons]
            exact step_of_agenda hcons
      _ = cpuStep { s with agenda := s.agenda.tail } := fire_cpu hlive hpaused
      _ = _ := cpuStep_of_fetch hfetch

/-! The state with an opcode placed -/

theorem State.withOpcode_live (s : State) (op : Word) : (s.withOpcode op).live = true := rfl

theorem State.withOpcode_paused (s : State) (op : Word) : (s.withOpcode op).paused = false := rfl

/-- The CPU step is next in it: nothing is queued, or a CPU event was put before the queue. -/
theorem State.withOpcode_agenda (s : State) (op : Word) :
    (s.withOpcode op).agenda = [] ∨ ∃ rest, (s.withOpcode op).agenda = .cpu :: rest := by
  unfold State.withOpcode
  cases s.agenda with
  | nil => exact .inl rfl
  | cons e rest => exact .inr ⟨e :: rest, rfl⟩

end Sys2Proof.Machine

namespace Sys2Proof

theorem tableWord_sixteen (w : Nat) : tableWord 16 w = BitVec.ofNat 16 w := by
  simp [tableWord, BitVec.toNat_eq]

/-- The bytes of a word, with any bytes after them, decode as the word does. -/
theorem decode_wordBytes (op : Word) (rest : List Byte) :
    decode (wordBytes op ++ rest) = .ok (decodeWord op, rest) :=
  congrArg (fun w => Except.ok (decodeWord w, rest)) (composeWord_bytes op)

theorem decodeTableWord_eq (nbits w : Nat) :
    decodeTableWord nbits w = some (decodeWord (tableWord nbits w)) := by
  have h := decode_wordBytes (tableWord nbits w) []
  rw [List.append_nil] at h
  simp only [decodeTableWord, h]

end Sys2Proof
end

section
/-! The statements of the family 30_encoding.md, each from the lemmas above. -/

namespace Sys2Proof.Spec

open Sys2Proof.Machine

/-- Settles O1: the bytes compose to the encoded word, which decodes to the instruction. -/
theorem decodeOfEncodeIsIdentity : Obligations.DecodeOfEncodeIsIdentity := by
  unfold Obligations.DecodeOfEncodeIsIdentity
  intro i rest hwf
  rw [decode_wordBytes, decodeWord_encode hwf]

/-- Settles O2: the decoded instruction is a well-formed one of the word the two bytes compose. -/
theorem encodeOfDecodeIsIdentity : Obligations.EncodeOfDecodeIsIdentity := by
  unfold Obligations.EncodeOfDecodeIsIdentity
  intro hi lo rest
  obtain ⟨hwf, hword⟩ := decodeWord_spec (composeWord hi lo)
  exact ⟨decodeWord (composeWord hi lo), rfl, hwf, hword.symm ▸ wordBytes_composeWord hi lo⟩

/-- Settles O3: the word is that of the decoded instruction, and it selects the instruction's row. -/
theorem decodeSelectsOpcodeMapRow : Obligations.DecodeSelectsOpcodeMapRow := by
  unfold Obligations.DecodeSelectsOpcodeMapRow
  intro op
  obtain ⟨hwf, hword⟩ := decodeWord_spec op
  rw [← rowSelected_encode hwf, hword]

/-- Settles O4, from the unrecognised words and the SYS words by their fields. -/
theorem unrecognisedSpaceIsAsListed : Obligations.UnrecognisedSpaceIsAsListed := by
  unfold Obligations.UnrecognisedSpaceIsAsListed
  intro op
  have hfamily : fieldF op = 0x0 ↔ op.toNat / 4096 = 0 := by
    rw [← fieldF_toNat]
    exact BitVec.toNat_inj.symm
  exact ⟨(decodeWord_eq_unrecognised_iff op).trans (isUnrecognised_iff op),
    (decodeWord_eq_sys_iff op).trans (and_congr_left' hfamily)⟩

/-- Settles O5: eighteen closed facts, which the decoder computes. -/
theorem writtenOutWordsDecode : Obligations.WrittenOutWordsDecode := by
  unfold Obligations.WrittenOutWordsDecode
  decide

/-- Settles O7: the fetch composes the two bytes, so the step runs the word they decode from. -/
theorem stepRunsDecodedInstruction : Obligations.StepRunsDecodedInstruction := by
  unfold Obligations.StepRunsDecodedInstruction
  intro s i hpc hdecode hrunning hquit hpaused
  cases hdecode
  have hstep := step_of_fetch (State.fetch_of_le hpc) (State.live_iff.mpr ⟨hrunning, hquit⟩) hpaused
  refine ⟨fun hnil => (hstep (.inl hnil)).trans ?_,
    fun rest hcons => (hstep (.inr ⟨rest, hcons⟩)).trans ?_⟩
  · rw [hnil, List.tail_nil, ← hnil]
  · rw [hcons, List.tail_cons]

/-- Settles O8: the placed word is the one fetched, and the CPU step is next. -/
theorem placedWordRunsNext : Obligations.PlacedWordRunsNext := by
  unfold Obligations.PlacedWordRunsNext
  intro s w _
  rw [← tableWord_sixteen]
  exact ⟨decodeTableWord_eq 16 w, step_of_fetch (State.fetch_withOpcode s _) (State.withOpcode_live s _)
    (State.withOpcode_paused s _) (State.withOpcode_agenda s _)⟩

end Sys2Proof.Spec
end

section
/-! Control flow (40_flow.md R80 to R90): jump targets, the skip law and the words that do nothing. -/

namespace Sys2Proof.Machine

open Sys2Proof.Spec

variable {s : State}

/-! Only PC changes -/

theorem State.onlyPc_setPc (s : State) (w : Word) : OnlyPc s (s.setPc w) := ⟨rfl, fun _ => rfl⟩

theorem State.onlyPc_skipIf (s : State) (cond : Bool) : OnlyPc s (s.skipIf cond) := by
  obtain ⟨p, hskip⟩ := State.skipIf_frame s cond
  rw [hskip]
  exact s.onlyPc_setPc p

/-! Jump targets (R82, R88) -/

theorem zext16_toNat (nnn : Addr12) : (zext16 nnn).toNat = nnn.toNat :=
  BitVec.toNat_setWidth_of_le (by decide)

theorem State.jumpOffset_of_quirk {nnn : Addr12} (h : s.quirks.jump = true) :
    s.jumpOffset nnn = s.getV (BitVec.ofNat 4 (nnn.toNat / 256)) := by
  unfold State.jumpOffset
  rw [if_pos h, BitVec.extractLsb', Nat.shiftRight_eq_div_pow]

theorem State.jumpOffset_of_no_quirk {nnn : Addr12} (h : s.quirks.jump = false) :
    s.jumpOffset nnn = s.getV 0 := by
  simp [State.jumpOffset, h]

/-- A 12-bit address and a byte sum without a carry out of 16 bits (decision D10). -/
theorem zext16_add_byte_toNat (nnn : Addr12) (b : Byte) :
    (zext16 nnn + b.setWidth 16).toNat = nnn.toNat + b.toNat := by
  have hnnn := nnn.isLt
  have hb := b.isLt
  have htarget := zext16_toNat nnn
  have hoffset : (b.setWidth 16).toNat = b.toNat := BitVec.toNat_setWidth_of_le (by decide)
  rw [BitVec.toNat_add_of_lt (by omega), htarget, hoffset]

/-! The skip law (R90) -/

theorem State.toNat_pc_skipIf (s : State) (cond : Bool) :
    (s.skipIf cond).pc.toNat = (s.pc.toNat + if cond then 2 else 0) % 2 ^ 16 := by
  rw [State.skipIf_pc]
  cases cond with
  | true => exact BitVec.toNat_add s.pc 2
  | false => exact (Nat.mod_eq_of_lt s.pc.isLt).symm

/-- An instruction that answers a conditional skip obeys the skip law for any wording of its condition. -/
theorem skipsIf_of_exec {i : Instr} {b : Bool} {cond : Prop} [Decidable cond]
    (h : exec i s = .next (s.skipIf b)) (hcond : b = true ↔ cond) : SkipsIf i s cond := by
  refine ⟨_, h, ?_, s.onlyPc_skipIf b⟩
  rw [s.toNat_pc_skipIf b]
  simp only [hcond]

/-! The words that do nothing (R80, R89) -/

/-- SYS is every word below 0x1000 but the two FIXED words. -/
theorem decodeWord_sys_of_lt {op : Word} (hlow : op.toNat < 0x1000) (hcls : op ≠ 0x00E0)
    (hret : op ≠ 0x00EE) :
    ∃ nnn, decodeWord op = .sys nnn := by
  have hfamily : fieldF op = 0x0 :=
    BitVec.eq_of_toNat_eq ((fieldF_toNat op).trans (Nat.div_eq_of_lt hlow))
  exact (decodeWord_eq_sys_iff op).mpr ⟨hfamily, hcls, hret⟩

theorem exec_decodeWord_of_noOp {op : Word}
    (h : (op.toNat < 0x1000 ∧ op ≠ 0x00E0 ∧ op ≠ 0x00EE) ∨ isUnrecognised op = true) (s : State) :
    exec (decodeWord op) s = .next s := by
  obtain ⟨hlow, hcls, hret⟩ | hunrec := h
  · obtain ⟨nnn, hsys⟩ := decodeWord_sys_of_lt hlow hcls hret
    rw [hsys]; rfl
  · rw [decodeWord_of_isUnrecognised hunrec]; rfl

/-- The encoding of JP (R82). -/
theorem encode_jp (nnn : Addr12) : encode (.jp nnn) = BitVec.ofNat 16 (0x1000 + nnn.toNat) := by
  have hnnn := nnn.isLt
  apply BitVec.eq_of_toNat_eq
  rw [BitVec.toNat_ofNat, Nat.mod_eq_of_lt (by omega)]
  exact packNNN_toNat 0x1 nnn

end Sys2Proof.Machine
end

section
/-! The statements of the family 40_flow.md, each from the lemmas above. -/

namespace Sys2Proof.Spec

open Sys2Proof.Machine

/-- Settles O9: such a word decodes to an instruction that answers the state it is given, which fetch has
advanced. -/
theorem noOpWordsOnlyAdvancePc : Obligations.NoOpWordsOnlyAdvancePc := by
  unfold Obligations.NoOpWordsOnlyAdvancePc
  refine fun s => ⟨fun _ => rfl, fun _ => rfl, fun op hnext hfetch hop => ?_⟩
  have hstep : step s = .next s.advancePc :=
    calc step s = cpuStep s := step_of_cpuNext hnext
      _ = exec (decodeWord op) s.advancePc := cpuStep_of_fetch hfetch
      _ = .next s.advancePc := exec_decodeWord_of_noOp hop _
  exact ⟨_, hstep, BitVec.toNat_add s.pc 2, s.onlyPc_setPc _⟩

/-- Settles O13: the push succeeds, and it writes the entry at SP and no other. -/
theorem callPushesReturnAddress : Obligations.CallPushesReturnAddress := by
  unfold Obligations.CallPushesReturnAddress
  intro s nnn hlen hroom
  have hentry := stackEntry_set s.stack s.sp s.pc (hlen ▸ hroom)
  exact ⟨_, execCall_of_room s hroom.ne, zext16_toNat nnn, rfl, (hentry s.sp).trans (if_pos rfl),
    fun k hk => (hentry k).trans (if_neg hk), List.length_set, rfl, fun _ => rfl⟩

/-- Settles O10: the word is JP's encoding, and its target fits in PC. -/
theorem jumpSetsPcToTarget : Obligations.JumpSetsPcToTarget := by
  unfold Obligations.JumpSetsPcToTarget
  intro s nnn
  refine ⟨?_, _, rfl, zext16_toNat nnn, s.onlyPc_setPc _⟩
  rw [← encode_jp]
  exact decodeWord_encode rfl

/-- Settles O11: the register by the quirk, the sum without a carry. -/
theorem jumpOffsetAddsSelectedRegister : Obligations.JumpOffsetAddsSelectedRegister := by
  unfold Obligations.JumpOffsetAddsSelectedRegister
  intro s nnn
  have htarget := zext16_add_byte_toNat nnn (s.jumpOffset nnn)
  refine ⟨_, rfl, fun hquirk => ?_, fun hquirk => ?_, s.onlyPc_setPc _⟩
  · rwa [← State.jumpOffset_of_no_quirk hquirk]
  · rwa [← State.jumpOffset_of_quirk hquirk]

/-- Settles O12: each of the six answers the shared skip, whose law is proved once. -/
theorem skipLaw : Obligations.SkipLaw := by
  unfold Obligations.SkipLaw
  exact fun s x y nn n =>
    ⟨skipsIf_of_exec rfl beq_iff_eq, skipsIf_of_exec rfl bne_iff_ne,
      skipsIf_of_exec rfl beq_iff_eq, skipsIf_of_exec rfl bne_iff_ne,
      skipsIf_of_exec rfl Iff.rfl, skipsIf_of_exec rfl (Bool.not_eq_true' _).to_iff⟩

/-- Settles O15: the pop succeeds and answers the top entry. -/
theorem returnPopsTopEntry : Obligations.ReturnPopsTopEntry := by
  unfold Obligations.ReturnPopsTopEntry
  intro s hsp
  exact ⟨_, execRet_of_entries s hsp, rfl, Nat.succ_pred_eq_of_ne_zero hsp, rfl, fun _ => rfl⟩

end Sys2Proof.Spec
end

section
/-! Arithmetic, logic, shifts and random bytes (41_alu.md R100 to R113): results and flags as numbers, and
what an instruction that writes a register, or a result and then the flag, does. -/

namespace Sys2Proof.Machine

open Sys2Proof.Spec

variable {s : State}

/-! Results and flags as numbers (R112) -/

theorem addResult_toNat (x y : Byte) : (addResult x y).toNat = (x.toNat + y.toNat) % 256 :=
  BitVec.toNat_ofNat _ _

/-- The 256 that keeps the difference positive is left only where it borrows. -/
theorem subResult_toNat (x y : Byte) : (subResult x y).toNat =
    if x.toNat ≥ y.toNat then x.toNat - y.toNat else x.toNat + 256 - y.toNat := by
  have hx := x.isLt
  rw [subResult, BitVec.toNat_ofNat]
  split <;> omega

theorem shrResult_toNat (b : Byte) : (shrResult b).toNat = b.toNat / 2 :=
  (BitVec.toNat_ofNat _ _).trans (Nat.mod_eq_of_lt ((Nat.div_le_self _ _).trans_lt b.isLt))

theorem shlResult_toNat (b : Byte) : (shlResult b).toNat = b.toNat * 2 % 256 := BitVec.toNat_ofNat _ _

theorem flagByte_toNat (b : Bool) : (flagByte b).toNat = b.toNat := by cases b <;> rfl

theorem flagByte_decide_toNat (p : Prop) [Decidable p] :
    (flagByte (decide p)).toNat = if p then 1 else 0 := by
  rw [flagByte_toNat, Bool.toNat, Bool.cond_decide]

theorem addFlag_toNat (x y : Byte) : (addFlag x y).toNat = if x.toNat + y.toNat > 255 then 1 else 0 :=
  flagByte_decide_toNat _

theorem subFlag_toNat (x y : Byte) : (subFlag x y).toNat = if x.toNat ≥ y.toNat then 1 else 0 :=
  flagByte_decide_toNat _

/-- The bit a right shift drops is the remainder of the division. -/
theorem shrFlag_toNat (b : Byte) : (shrFlag b).toNat = b.toNat % 2 := by
  rw [shrFlag, flagByte_toNat, BitVec.getLsbD, Nat.toNat_testBit, pow_zero, Nat.div_one]

/-- The bit a left shift drops is the highest one, of weight 128. -/
theorem shlFlag_toNat (b : Byte) : (shlFlag b).toNat = b.toNat / 128 := by
  have hb := b.isLt
  rw [shlFlag, flagByte_toNat, BitVec.getLsbD, Nat.toNat_testBit]
  omega

/-! The source of a shift (R108, R110) -/

theorem State.shiftSource_of_quirk {x y : Reg} (h : s.quirks.shift = true) : s.shiftSource x y = s.getV y :=
  if_pos h

theorem State.shiftSource_of_no_quirk {x y : Reg} (h : s.quirks.shift = false) :
    s.shiftSource x y = s.getV x := by
  simp [State.shiftSource, h]

theorem State.eq_shiftSource {x y : Reg} {src : Byte} (hy : s.quirks.shift = true → src = s.getV y)
    (hx : s.quirks.shift = false → src = s.getV x) : src = s.shiftSource x y := by
  cases hquirk : s.quirks.shift with
  | true => rw [hy hquirk, State.shiftSource_of_quirk hquirk]
  | false => rw [hx hquirk, State.shiftSource_of_no_quirk hquirk]

/-! What is written, and nothing else -/

theorem State.onlyRegisters_setV (s : State) (x : Reg) (b : Byte) : OnlyRegisters s (s.setV x b) :=
  ⟨rfl, fun _ => rfl⟩

theorem State.onlyRegisters_setVFlag (s : State) (x : Reg) (r f : Byte) :
    OnlyRegisters s (s.setVFlag x r f) := ⟨rfl, fun _ => rfl⟩

theorem writesRegister_of_exec {i : Instr} {x : Reg} {b : Byte} {r : Byte → Prop}
    (h : exec i s = .next (s.setV x b)) (hr : r b) : WritesRegister i s x r := by
  refine ⟨_, h, ?_, fun k hk => State.getV_setV_of_ne hk, s.onlyRegisters_setV x b⟩
  rwa [State.getV_setV_self]

theorem State.getV_setVFlag_VF (s : State) (x : Reg) (r f : Byte) : (s.setVFlag x r f).getV VF = f := by
  simp

theorem State.getV_setVFlag_self {x : Reg} {r f : Byte} (h : x ≠ VF) : (s.setVFlag x r f).getV x = r := by
  simp [h]

/-- The flag is written last, so it is in VF even where VF is the destination (R113, decision D11). -/
theorem writesResultThenFlag_of_exec {i : Instr} {x : Reg} {b c : Byte} {r f : Nat}
    (h : exec i s = .next (s.setVFlag x b c)) (hr : b.toNat = r) (hf : c.toNat = f) :
    WritesResultThenFlag i s x r f := by
  refine ⟨_, h, fun hx => ?_, ?_, fun k => State.getV_setVFlag_of_ne, s.onlyRegisters_setVFlag x b c⟩
  · rwa [State.getV_setVFlag_self hx]
  · rwa [State.getV_setVFlag_VF]

/-! The words (R62) -/

theorem packXNN_eq_ofNat (f : Nibble) (x : Reg) (nn : Byte) :
    packXNN f x nn = BitVec.ofNat 16 (f.toNat * 4096 + 256 * x.toNat + nn.toNat) := by
  rw [Nat.mul_comm 256, ← packXNN_toNat, BitVec.ofNat_toNat, BitVec.setWidth_eq]

/-- The encoding of LD (R100). -/
theorem encode_ldImm (x : Reg) (nn : Byte) :
    encode (.ldImm x nn) = BitVec.ofNat 16 (0x6000 + 256 * x.toNat + nn.toNat) := packXNN_eq_ofNat 0x6 x nn

/-- The encoding of ADD (R101). -/
theorem encode_addImm (x : Reg) (nn : Byte) :
    encode (.addImm x nn) = BitVec.ofNat 16 (0x7000 + 256 * x.toNat + nn.toNat) := packXNN_eq_ofNat 0x7 x nn

end Sys2Proof.Machine
end

section
/-! The statements of the family 41_alu.md, each from the lemmas above. -/

namespace Sys2Proof.Spec

open Sys2Proof.Machine

/-- Settles O23: SUBN is SUB with the operands exchanged, so one result and one flag serve both. -/
theorem subtractsSetDifferenceThenNoBorrow : Obligations.SubtractsSetDifferenceThenNoBorrow := by
  unfold Obligations.SubtractsSetDifferenceThenNoBorrow
  exact fun s x y =>
    ⟨writesResultThenFlag_of_exec rfl (subResult_toNat _ _) (subFlag_toNat _ _),
      writesResultThenFlag_of_exec rfl (subResult_toNat _ _) (subFlag_toNat _ _)⟩

/-- Settles O24: under either setting of the quirk the source is the one the machine shifts. -/
theorem shiftsSetResultThenShiftedOutBit : Obligations.ShiftsSetResultThenShiftedOutBit := by
  unfold Obligations.ShiftsSetResultThenShiftedOutBit
  intro s x y src hy hx
  rw [State.eq_shiftSource hy hx]
  exact ⟨writesResultThenFlag_of_exec rfl (shrResult_toNat _) (shrFlag_toNat _),
    writesResultThenFlag_of_exec rfl (shlResult_toNat _) (shlFlag_toNat _)⟩

/-- Settles O19: the word is LD's encoding, and VF is a destination like any other. -/
theorem loadImmediateWritesRegister : Obligations.LoadImmediateWritesRegister := by
  unfold Obligations.LoadImmediateWritesRegister
  intro s x nn
  refine ⟨?_, writesRegister_of_exec rfl rfl⟩
  rw [← encode_ldImm]
  exact decodeWord_encode rfl

/-- Settles O20: the word is ADD's encoding, and only the sum is written. -/
theorem addImmediateWrapsWithoutFlag : Obligations.AddImmediateWrapsWithoutFlag := by
  unfold Obligations.AddImmediateWrapsWithoutFlag
  intro s x nn
  refine ⟨?_, writesRegister_of_exec rfl (addResult_toNat _ _)⟩
  rw [← encode_addImm]
  exact decodeWord_encode rfl

/-- Settles O21: each of the four writes one register, and the logic works bit by bit. -/
theorem copyAndLogicWriteOnlyVx : Obligations.CopyAndLogicWriteOnlyVx := by
  unfold Obligations.CopyAndLogicWriteOnlyVx
  exact fun s x y =>
    ⟨writesRegister_of_exec rfl rfl,
      writesRegister_of_exec rfl fun _ _ => BitVec.getLsbD_or,
      writesRegister_of_exec rfl fun _ _ => BitVec.getLsbD_and,
      writesRegister_of_exec rfl fun _ _ => BitVec.getLsbD_xor⟩

/-- Settles O22: the sum is written first and the carry of the old operands last. -/
theorem addSetsSumThenCarry : Obligations.AddSetsSumThenCarry := by
  unfold Obligations.AddSetsSumThenCarry
  exact fun s x y => writesResultThenFlag_of_exec rfl (addResult_toNat _ _) (addFlag_toNat _ _)

/-- Settles O26: the byte is the injected one or the free value, and the register write that follows its
consumption is the only other change. -/
theorem randomIsMaskedAndConsumesOne : Obligations.RandomIsMaskedAndConsumesOne := by
  unfold Obligations.RandomIsMaskedAndConsumesOne
  intro s x nn
  refine ⟨_, s.rndByte, rfl, fun _ _ => s.rndByte_cons, s.rndByte_nil, fun j _ => ?_,
    fun k hk => State.getV_setV_of_ne hk, rfl, List.drop_one.symm, rfl, fun _ => rfl⟩
  rw [State.getV_setV_self, BitVec.getLsbD_and]

end Sys2Proof.Spec
end

section
/-! The index register and memory (42_index_memory.md R120 to R126): the values written to I, and what FX33,
FX55 and FX65 do when their access is in range. -/

namespace Sys2Proof.Machine

open Sys2Proof.Spec

variable {s : State}

/-! The values of I and the flag of FX1E as numbers (R121, R122) -/

theorem addIResult_toNat (trunc12 : Bool) (i : Word) (x : Byte) :
    (addIResult trunc12 i x).toNat = (i.toNat + x.toNat) % if trunc12 then 2 ^ 12 else 2 ^ 16 := by
  cases trunc12 with
  | false => exact BitVec.toNat_ofNat _ _
  | true => exact (BitVec.toNat_ofNat _ _).trans (Nat.mod_mod_of_dvd' (by decide))

theorem addIFlag_toNat (i : Word) (x : Byte) :
    (addIFlag i x).toNat = if i.toNat + x.toNat > 0xFFF then 1 else 0 :=
  flagByte_decide_toNat _

/-- A legal font ends below the program, so the address of a glyph fits in I. -/
theorem fontAddr_toNat {c : Config} (hc : c.Legal) {d : Byte} (hd : d.toNat ≤ 0x0F) :
    (fontAddr c d).toNat = c.fontBase + 5 * d.toNat := by
  obtain ⟨-, -, hbase, -, -⟩ := hc
  simp only [progBase] at hbase
  exact (BitVec.toNat_ofNat _ _).trans (Nat.mod_eq_of_lt (by omega))

/-! The three decimal digits (R123) -/

theorem bcdDigits_toNat_le (b : Byte) {k : Nat} (h : k < 3) : ((bcdDigits b).getD k 0).toNat ≤ 9 := by
  rw [bcdDigits_toNat b h]
  omega

theorem bcdDigits_sum (b : Byte) :
    100 * ((bcdDigits b).getD 0 0).toNat + 10 * ((bcdDigits b).getD 1 0).toNat +
      ((bcdDigits b).getD 2 0).toNat = b.toNat := by
  have hb := b.isLt
  rw [bcdDigits_toNat b (by decide), bcdDigits_toNat b (by decide), bcdDigits_toNat b (by decide)]
  omega

/-! The accesses in range -/

theorem execLdB_of_le {x : Reg} (h : s.i.toNat + 2 ≤ 0xFFF) :
    execLdB x s = .next (s.putBytes s.base (bcdDigits (s.getV x))) :=
  accessing_inRange _ (inRange_succ_iff.mpr h)

theorem execStore_of_le {x : Reg} (h : s.i.toNat + x.toNat ≤ 0xFFF) :
    execStore x s = .next ((s.putBytes s.base (s.regsUpTo x)).advanceI x) :=
  accessing_inRange _ (inRange_succ_iff.mpr h)

theorem execLoad_of_le {x : Reg} (h : s.i.toNat + x.toNat ≤ 0xFFF) :
    execLoad x s = .next ((s.setRegs (s.bytesAt s.base (x.toNat + 1))).advanceI x) :=
  accessing_inRange _ (inRange_succ_iff.mpr h)

/-! The bytes FX55 stores and the registers FX65 loads (R124, R125) -/

theorem State.byteAt_store {x k : Reg} (h : k.toNat ≤ x.toNat) :
    ((s.putBytes s.base (s.regsUpTo x)).advanceI x).byteAt (s.i.toNat + k.toNat) = s.getV k :=
  calc ((s.putBytes s.base (s.regsUpTo x)).advanceI x).byteAt (s.i.toNat + k.toNat)
    _ = (s.putBytes s.base (s.regsUpTo x)).byteAt (s.base + k.toNat) := State.byteAt_advanceI _ x _
    _ = (s.regsUpTo x).getD k.toNat 0 :=
      State.byteAt_putBytes_within ((Nat.lt_succ_of_le h).trans_eq (s.regsUpTo_length x).symm)
    _ = s.getV k := by rw [s.regsUpTo_getD x h, BitVec.ofNat_toNat, BitVec.setWidth_eq]

theorem State.byteAt_store_beyond {x : Reg} {a : Nat} (h : a < s.i.toNat ∨ s.i.toNat + x.toNat < a) :
    ((s.putBytes s.base (s.regsUpTo x)).advanceI x).byteAt a = s.byteAt a := by
  rw [State.byteAt_advanceI]
  exact State.byteAt_putBytes_beyond (by rwa [State.regsUpTo_length])

theorem State.getV_load (s : State) (x k : Reg) :
    ((s.setRegs (s.bytesAt s.base (x.toNat + 1))).advanceI x).getV k =
      if k.toNat ≤ x.toNat then s.byteAt (s.i.toNat + k.toNat) else s.getV k := by
  have hlen := s.bytesAt_length s.base (x.toNat + 1)
  rw [State.getV_advanceI, State.getV_setRegs s _ (hlen.trans_le x.isLt), hlen]
  simp only [Nat.lt_succ_iff]
  split
  · next hk => exact s.bytesAt_getD s.base (Nat.lt_succ_of_le hk)
  · rfl

theorem State.getV_load_of_le {x k : Reg} (h : k.toNat ≤ x.toNat) :
    ((s.setRegs (s.bytesAt s.base (x.toNat + 1))).advanceI x).getV k = s.byteAt (s.i.toNat + k.toNat) :=
  (s.getV_load x k).trans (if_pos h)

theorem State.getV_load_of_lt {x k : Reg} (h : x.toNat < k.toNat) :
    ((s.setRegs (s.bytesAt s.base (x.toNat + 1))).advanceI x).getV k = s.getV k :=
  (s.getV_load x k).trans (if_neg (Nat.not_le.mpr h))

end Sys2Proof.Machine
end

section
/-! The statements of the family 42_index_memory.md, each from the lemmas above. -/

namespace Sys2Proof.Spec

open Sys2Proof.Machine

/-- Settles O28: I receives the sum and VF, written last, the flag of the old operands. -/
theorem addIndexSetsSumThenFlag : Obligations.AddIndexSetsSumThenFlag := by
  unfold Obligations.AddIndexSetsSumThenFlag
  intro s x
  refine ⟨_, rfl, addIResult_toNat _ _ _, ?_, fun k hk => State.getV_setV_of_ne hk, rfl, fun _ => rfl⟩
  rw [State.getV_setV_self, addIFlag_toNat]

/-- Settles O29: a digit selects its glyph, whose address fits; a larger value is the no-op. -/
theorem fontAddressOrNoOp : Obligations.FontAddressOrNoOp := by
  unfold Obligations.FontAddressOrNoOp
  exact fun s x hlegal =>
    ⟨fun hdigit => ⟨_, execLdF_of_digit hdigit, fontAddr_toNat hlegal hdigit, rfl, fun _ => rfl⟩,
      fun hbeyond => execLdF_of_beyond (Nat.not_le.mpr hbeyond)⟩

/-- Settles O30: the bytes at I are the digits, which make up the number. -/
theorem bcdStoresThreeDigits : Obligations.BcdStoresThreeDigits := by
  unfold Obligations.BcdStoresThreeDigits
  intro s x h
  have hdigit (k : Nat) (hk : k < 3) :
      (s.putBytes s.base (bcdDigits (s.getV x))).byteAt (s.i.toNat + k) =
        (bcdDigits (s.getV x)).getD k 0 :=
    State.byteAt_putBytes_within hk
  refine ⟨_, execLdB_of_le h, ?_, ?_, ?_,
    fun a => State.byteAt_putBytes_beyond (bs := bcdDigits (s.getV x)), rfl⟩
  · have hsum := bcdDigits_sum (s.getV x)
    rwa [← hdigit 0 (by decide), ← hdigit 1 (by decide), ← hdigit 2 (by decide)] at hsum
  · rw [hdigit 1 (by decide)]
    exact bcdDigits_toNat_le _ (by decide)
  · rw [hdigit 2 (by decide)]
    exact bcdDigits_toNat_le _ (by decide)

/-- Settles O31: the store writes memory at I, the advance that follows it writes I. -/
theorem storeWritesRegistersAtI : Obligations.StoreWritesRegistersAtI := by
  unfold Obligations.StoreWritesRegistersAtI
  intro s x h
  refine ⟨_, execStore_of_le h, fun k => State.byteAt_store, fun a => State.byteAt_store_beyond,
    State.toNat_i_advanceI (s.putBytes _ _) x h, ?_⟩
  rw [State.advanceI_frame]
  rfl

/-- Settles O32: the load writes the registers up to X, the advance that follows it writes I. -/
theorem loadReadsRegistersFromI : Obligations.LoadReadsRegistersFromI := by
  unfold Obligations.LoadReadsRegistersFromI
  intro s x h
  refine ⟨_, execLoad_of_le h, fun k => State.getV_load_of_le, fun k => State.getV_load_of_lt,
    State.toNat_i_advanceI (s.setRegs _) x h, ?_, State.byteAt_advanceI (s.setRegs _) x⟩
  rw [State.advanceI_frame]
  rfl

/-- Settles O33: the load reads the bytes where the store put them. -/
theorem storeThenLoadRestoresRegisters : Obligations.StoreThenLoadRestoresRegisters := by
  unfold Obligations.StoreThenLoadRestoresRegisters
  intro s x h
  refine ⟨_, execStore_of_le h, fun t' hmem hcfg hi => ⟨_, execLoad_of_le (hi ▸ h), fun k hk => ?_⟩⟩
  rw [State.getV_load_of_le hk, hi, State.byteAt_congr _ hcfg hmem, State.byteAt_store hk]

/-- Settles O27: a 12-bit address keeps its value in I. -/
theorem loadIndexWritesI : Obligations.LoadIndexWritesI := by
  unfold Obligations.LoadIndexWritesI
  intro s nnn
  exact ⟨_, rfl, zext16_toNat nnn, Nat.le_of_lt_succ (zext16_toNat_lt nnn), rfl, fun _ => rfl⟩

end Sys2Proof.Spec
end

section
/-! The framebuffer (43_display.md R135 to R141): the cells a sprite toggles, its collision flag, and what a
second draw of the same sprite does. -/

namespace Sys2Proof.Machine

open Sys2Proof.Spec

/-- A grid is determined by its cells. -/
theorem Framebuffer.eq_of_cell_eq {w h : Nat} {fb fb' : Framebuffer} (hs : Framebuffer.shaped w h fb)
    (hs' : Framebuffer.shaped w h fb')
    (hcell : ∀ cy cx, Framebuffer.cell fb cy cx = Framebuffer.cell fb' cy cx) : fb = fb' := by
  obtain ⟨hlen, hrow⟩ := hs
  obtain ⟨hlen', hrow'⟩ := hs'
  refine List.ext_getElem (hlen.trans hlen'.symm) fun cy hy hy' => ?_
  have hwidth := (hrow _ (List.getElem_mem hy)).trans (hrow' _ (List.getElem_mem hy')).symm
  refine List.ext_getElem hwidth fun cx hx hx' => ?_
  simpa [Framebuffer.cell, List.getD_eq_getElem, hy, hy', hx, hx'] using hcell cy cx

variable {s : State} {x y : Reg} {n : Nibble}

/-! The cells and the flag of DXYN (R136 to R139) -/

/-- The hits of the sprite bytes are the cells the statements call covered. -/
theorem spriteHits_iff_spriteCovers {cy cx : Nat} :
    SpriteHits s.cfg.fbW s.cfg.fbH ((s.getV x).toNat % s.cfg.fbW) ((s.getV y).toNat % s.cfg.fbH) 0
      (s.bytesAt s.base n.toNat) cy cx ↔ SpriteCovers s x y n cy cx := by
  have hbyte {row : Nat} (hr : row < n.toNat) :
      (s.bytesAt s.base n.toNat).getD row 0 = s.byteAt (s.i.toNat + row) := s.bytesAt_getD s.base hr
  simp only [SpriteHits, RowHits, State.bytesAt_length, Nat.zero_add, spriteBit]
  constructor
  · rintro ⟨row, hr, hy, col, hc, hbit, hx⟩
    exact ⟨row, hr, col, hc, hbyte hr ▸ hbit, hx, hy⟩
  · rintro ⟨row, hr, col, hc, hbit, hx, hy⟩
    exact ⟨row, hr, hy, col, hc, (hbyte hr).symm ▸ hbit, hx⟩

/-- A sprite has at most 15 rows, which a legal framebuffer holds: no cell is hit twice. -/
theorem State.Legal.drawn_spec (hs : s.Legal) (x y : Reg) (n : Nibble) :
    (∀ cy cx, Framebuffer.cell (s.drawn x y n).1 cy cx =
      (Framebuffer.cell s.fb cy cx ^^ decide (SpriteCovers s x y n cy cx))) ∧
    ((s.drawn x y n).2 = true ↔
      ∃ cy cx, SpriteCovers s x y n cy cx ∧ Framebuffer.cell s.fb cy cx = true) := by
  obtain ⟨⟨hw, hh, -, -, -⟩, -, -, -, hfb⟩ := hs
  have hrows : (s.bytesAt s.base n.toNat).length ≤ s.cfg.fbH := by
    rw [State.bytesAt_length]
    omega
  have hspec := drawRows_spec hw (by omega) ((s.getV x).toNat % s.cfg.fbW)
    ((s.getV y).toNat % s.cfg.fbH) 0 _ (s.fb, false) hfb hrows
  simp only [spriteHits_iff_spriteCovers, Bool.false_eq_true, false_or] at hspec
  exact hspec

theorem State.Legal.cell_drawn_of_covers (hs : s.Legal) {cy cx : Nat} (h : SpriteCovers s x y n cy cx) :
    Framebuffer.cell (s.drawn x y n).1 cy cx = !(Framebuffer.cell s.fb cy cx) := by
  rw [(hs.drawn_spec x y n).1, decide_eq_true h, Bool.xor_true]

theorem State.Legal.cell_drawn_of_not_covers (hs : s.Legal) {cy cx : Nat}
    (h : ¬ SpriteCovers s x y n cy cx) :
    Framebuffer.cell (s.drawn x y n).1 cy cx = Framebuffer.cell s.fb cy cx := by
  rw [(hs.drawn_spec x y n).1, decide_eq_false h, Bool.xor_false]

/-- The collision flag: some cell of the grid went from 1 to 0 (R139, C1). -/
theorem State.Legal.drawn_flag_iff (hs : s.Legal) :
    (s.drawn x y n).2 = true ↔ ∃ cy < s.cfg.fbH, ∃ cx < s.cfg.fbW,
      Framebuffer.cell s.fb cy cx = true ∧ Framebuffer.cell (s.drawn x y n).1 cy cx = false := by
  have ⟨⟨hw, hh, _⟩, _⟩ := hs
  rw [(hs.drawn_spec x y n).2]
  constructor
  · rintro ⟨cy, cx, hcov, hset⟩
    have hunset := hs.cell_drawn_of_covers hcov
    obtain ⟨row, -, col, -, -, rfl, rfl⟩ := hcov
    exact ⟨_, Nat.mod_lt _ (by omega), _, Nat.mod_lt _ (by omega), hset, by rw [hunset, hset]; rfl⟩
  · rintro ⟨cy, -, cx, -, hset, hunset⟩
    refine ⟨cy, cx, by_contra fun hcov => ?_, hset⟩
    rw [hs.cell_drawn_of_not_covers hcov, hset] at hunset
    cases hunset

/-! The same sprite drawn again (R141) -/

/-- Every covered cell is toggled twice. -/
theorem State.Legal.drawn_drawn (hs : s.Legal) :
    ({ s with fb := (s.drawn x y n).1 }.drawn x y n).1 = s.fb := by
  have hlegal := hs.withFb (hs.shaped_drawn x y n)
  have ⟨_, _, _, _, hfb⟩ := hs
  refine Framebuffer.eq_of_cell_eq (hlegal.shaped_drawn x y n) hfb fun cy cx => ?_
  rw [(hlegal.drawn_spec x y n).1, (hs.drawn_spec x y n).1, Bool.xor_assoc]
  exact (congrArg _ (Bool.xor_self _)).trans (Bool.xor_false _)

/-- The flag in VF is not read by a draw whose coordinates are in other registers. -/
theorem State.drawn_setV_VF (f : Byte) (hx : x ≠ VF) (hy : y ≠ VF) :
    (s.setV VF f).drawn x y n = s.drawn x y n := by
  unfold State.drawn
  rw [State.getV_setV_of_ne hx, State.getV_setV_of_ne hy]
  rfl

/-! DXYN in range -/

theorem execDrw_of_inRange (h : SpriteInRange s n) : execDrw x y n s =
    .next (({ s with fb := (s.drawn x y n).1 }.setV VF (flagByte (s.drawn x y n).2)).notify .drew) :=
  accessing_inRange _ (inRange_sprite_iff.mpr h)

end Sys2Proof.Machine
end

section
/-! The statements of the family 43_display.md, each from the lemmas above. -/

namespace Sys2Proof.Spec

open Sys2Proof.Machine

/-- Settles O37: the grid of the next state is the drawn one. -/
theorem drawTogglesExactlyTheSpriteCells : Obligations.DrawTogglesExactlyTheSpriteCells := by
  unfold Obligations.DrawTogglesExactlyTheSpriteCells
  intro s x y n hlegal h
  exact ⟨_, execDrw_of_inRange h, hlegal.shaped_drawn x y n,
    fun cy _ cx _ => ⟨hlegal.cell_drawn_of_covers, hlegal.cell_drawn_of_not_covers⟩⟩

/-- Settles O38: VF, written last, holds the collision flag of the draw. -/
theorem drawFlagIsCollision : Obligations.DrawFlagIsCollision := by
  unfold Obligations.DrawFlagIsCollision
  intro s x y n hlegal h
  refine ⟨_, execDrw_of_inRange h, fun hcollision => ?_, fun hkept => ?_,
    fun k hk => State.getV_setV_of_ne hk, rfl, rfl, fun _ => rfl⟩
  · have hflag : (s.drawn x y n).2 = true := hlegal.drawn_flag_iff.mpr hcollision
    rw [State.getV_notify, State.getV_setV_self, hflag]
    rfl
  · have hflag : (s.drawn x y n).2 = false := by
      refine Bool.eq_false_iff.mpr fun htrue => ?_
      obtain ⟨cy, hcy, cx, hcx, hset, hunset⟩ := hlegal.drawn_flag_iff.mp htrue
      exact absurd ((hkept cy hcy cx hcx hset).symm.trans hunset) (by decide)
    rw [State.getV_notify, State.getV_setV_self, hflag]
    rfl

/-- Settles O39: the second draw finds I, the sprite and both coordinates as the first one did. -/
theorem drawTwiceRestoresFramebuffer : Obligations.DrawTwiceRestoresFramebuffer := by
  unfold Obligations.DrawTwiceRestoresFramebuffer
  intro s x y n hlegal h hx hy
  refine ⟨_, _, execDrw_of_inRange h, execDrw_of_inRange h, ?_⟩
  exact (congrArg Prod.fst (State.drawn_setV_VF _ hx hy)).trans hlegal.drawn_drawn

/-- Settles O36: the new grid is the blank one. -/
theorem clearScreenZeroesEveryCell : Obligations.ClearScreenZeroesEveryCell := by
  unfold Obligations.ClearScreenZeroesEveryCell
  exact fun s => ⟨_, rfl, Framebuffer.cell_blank _ _, Framebuffer.shaped_blank _ _, rfl, rfl, fun _ => rfl⟩

end Sys2Proof.Spec
end

section
/-! Keys and timers (44_keys_timers.md R145 to R151): the condition of the key skips, and FX0A with and
without a key down. -/

namespace Sys2Proof.Machine

variable {s : State}

/-- The key a byte names is down: above 15 it names none (R151, decision D15). -/
theorem State.pressed_iff {b : Byte} :
    s.pressed b = true ↔ b.toNat ≤ 15 ∧ s.keys.getLsbD b.toNat = true := by
  rw [State.pressed, Bool.and_eq_true, decide_eq_true_iff, State.key]

theorem State.not_pressed_iff {b : Byte} :
    (!s.pressed b) = true ↔ b.toNat > 15 ∨ s.keys.getLsbD b.toNat = false := by
  rw [Bool.not_eq_true', ← Bool.not_eq_true, State.pressed_iff, not_and_or, Nat.not_le, Bool.not_eq_true]

/-! FX0A (R147) -/

theorem execLdVxK_of_no_key (x : Reg) (h : s.keys = 0) : execLdVxK x s = .next s.rewindPc := by
  simp only [execLdVxK, selectKey_eq_none.mpr h]

theorem execLdVxK_of_selectKey (x : Reg) {k : Reg} (h : selectKey s.cfg s.keys = some k) :
    execLdVxK x s = .next (s.setV x (k.setWidth 8)) := by
  simp only [execLdVxK, h]

theorem exists_selectKey (c : Config) {keys : BitVec 16} (h : keys ≠ 0) : ∃ k, selectKey c keys = some k :=
  Option.ne_none_iff_exists'.mp (mt selectKey_eq_none.mp h)

/-- The rewind undoes the advance of fetch, modulo 2^16 (10_state.md R14). -/
theorem State.rewindPc_advancePc (s : State) : s.advancePc.rewindPc = s := by
  have hpc : s.pc + 2 - 2 = s.pc := BitVec.add_sub_cancel s.pc 2
  exact congrArg s.setPc hpc

end Sys2Proof.Machine
end

section
/-! The statements of the family 44_keys_timers.md, each from the lemmas above. -/

namespace Sys2Proof.Spec

open Sys2Proof.Machine

/-- Settles O41: the rewind takes back the advance of fetch, which is all the step did before it. -/
theorem waitForKeyRepeatsWithoutKey : Obligations.WaitForKeyRepeatsWithoutKey := by
  unfold Obligations.WaitForKeyRepeatsWithoutKey
  intro s x hkeys
  refine ⟨⟨_, execLdVxK_of_no_key x hkeys, BitVec.sub_add_cancel s.pc 2, s.onlyPc_setPc _⟩,
    fun op hnext hfetch hop => ?_⟩
  calc step s = cpuStep s := step_of_cpuNext hnext
    _ = exec (decodeWord op) s.advancePc := cpuStep_of_fetch hfetch
    _ = exec (.ldVxK x) s.advancePc := by rw [hop]
    _ = .next s.advancePc.rewindPc := execLdVxK_of_no_key x hkeys
    _ = .next s := by rw [s.rewindPc_advancePc]

/-- Settles O42: some key is selected, its number fits in the register, and the selection picks a pressed
key, the lowest one where it is to. -/
theorem waitForKeyStoresPressedKey : Obligations.WaitForKeyStoresPressedKey := by
  unfold Obligations.WaitForKeyStoresPressedKey
  intro s x hkeys
  obtain ⟨k, hk⟩ := exists_selectKey s.cfg hkeys
  have hindex : (k.setWidth 8).toNat = k.toNat := BitVec.toNat_setWidth_of_le (by decide)
  refine writesRegister_of_exec (execLdVxK_of_selectKey x hk) ?_
  rw [hindex]
  exact ⟨Nat.le_of_lt_succ k.isLt, selectKey_pressed hk, fun hlowest => selectKey_lowest hlowest hk⟩

/-- Settles O40: both answer the shared skip, on the level of the named key and on its negation. -/
theorem keySkipsReadTheNamedKey : Obligations.KeySkipsReadTheNamedKey := by
  unfold Obligations.KeySkipsReadTheNamedKey
  exact fun s x => ⟨skipsIf_of_exec rfl State.pressed_iff, skipsIf_of_exec rfl State.not_pressed_iff⟩

/-- Settles O43: FX07 is a register write; FX15 and FX18 write one timer, and the sound output is read off
ST. -/
theorem timerMovesCopyOneByte : Obligations.TimerMovesCopyOneByte := by
  unfold Obligations.TimerMovesCopyOneByte
  exact fun s x =>
    ⟨writesRegister_of_exec rfl rfl, ⟨_, rfl, rfl, rfl, fun _ => rfl⟩,
      ⟨_, rfl, rfl, State.sndActive_iff _, rfl, fun _ => rfl⟩⟩

end Sys2Proof.Spec
end

section
/-! Exceptions and events (60_exceptions.md R160 to R183): which instructions and steps raise what, each
queued event on a machine that is live and on one that is not, the state after a reset, and the scheduler
pass. -/

namespace Sys2Proof.Machine

open Sys2Proof.Spec

variable {s t : State}

/-! What faults, and what changes STATUS (R160, R163, R164) -/

theorem exec_ne_fault (i : Instr) (s : State) (f : Fault) : exec i s ≠ .fault f := by
  intro h
  cases i with
  | call nnn =>
    by_cases hfull : s.sp = s.cfg.stackCap.size
    · exact nomatch (execCall_of_full s hfull).symm.trans h
    · exact nomatch (execCall_of_room s hfull).symm.trans h
  | ret =>
    by_cases hempty : s.sp = 0
    · exact nomatch (execRet_of_empty s hempty).symm.trans h
    · exact nomatch (execRet_of_entries s hempty).symm.trans h
  | ldVxK x =>
    cases hkey : selectKey s.cfg s.keys with
    | none => exact nomatch (execLdVxK_of_no_key x (selectKey_eq_none.mp hkey)).symm.trans h
    | some k => exact nomatch (execLdVxK_of_selectKey x hkey).symm.trans h
  | drw | ldB | store | load => exact accessing_ne_fault h
  | sys | unrecognised | cls | jp | jpV0 | seImm | sneImm | seReg | sneReg | skp | sknp | ldI | addI | ldF
  | ldImm | addImm | ldReg | orReg | andReg | xorReg | addReg | subReg | shrReg | subnReg | shlReg | rnd
  | ldVxDT | ldDTVx | ldSTVx => exact nomatch h

theorem cpuStep_ne_fault (s : State) (f : Fault) : cpuStep s ≠ .fault f := by
  cases hfetch : s.fetch with
  | none => rw [cpuStep_of_fetch_none hfetch]; exact nofun
  | some op => rw [cpuStep_of_fetch hfetch]; exact exec_ne_fault _ _ f

theorem exec_status {i : Instr} (h : exec i s = .next t) (hi : usesStack i = false) :
    t.status = s.status := by
  rw [exec_frame h]
  simp [hi]

theorem execCall_status_of_room {nnn : Addr12} (hroom : s.sp ≠ s.cfg.stackCap.size)
    (h : execCall nnn s = .next t) : t.status = s.status := by
  rw [execCall_of_room s hroom] at h
  cases h; rfl

theorem execRet_status_of_entries (hsp : s.sp ≠ 0) (h : execRet s = .next t) : t.status = s.status := by
  rw [execRet_of_entries s hsp] at h
  cases h; rfl

/-- Entry to a fatal condition writes STATUS and nothing else; the recorded address is that of the
instruction, two below the advanced PC, and the outputs show it (R161, R162, R180). -/
theorem State.takeFatal_spec (s : State) (cause : Cause) :
    ∃ a, (s.takeFatal cause).status = .fatal cause a ∧ a + 2 = s.pc ∧
      (s.takeFatal cause).fatalOut = true ∧ (s.takeFatal cause).fatalInfo = (cause.code, a) ∧
      s.takeFatal cause = { s with status := (s.takeFatal cause).status } ∧
      SameBytes s (s.takeFatal cause) :=
  ⟨s.pc - 2, State.takeFatal_status s cause, BitVec.sub_add_cancel s.pc 2,
    (State.fatalOut_iff _).mpr ⟨_, _, State.takeFatal_status s cause⟩,
    State.fatalInfo_of_fatal _ (State.takeFatal_status s cause), rfl, fun _ => rfl⟩

/-! The queued events on a live machine (R168, R170, R172, R182) -/

theorem fire_tick (hlive : s.live = true) : fire .tick s = .next s.timerTick :=
  congrArg Host.Outcome.next (if_pos hlive)

theorem fire_present (hlive : s.live = true) : fire .present s = .next s.present :=
  congrArg Host.Outcome.next (if_pos hlive)

theorem fire_pass (hlive : s.live = true) (now : Rat) : fire (.pass now) s = .next (s.schedulerPass now) :=
  congrArg Host.Outcome.next (if_pos hlive)

theorem fire_setPause (hlive : s.live = true) (level : Bool) :
    fire (.host (.setPause level)) s = .next { s with paused := level } :=
  congrArg Host.Outcome.next (if_pos hlive)

theorem fire_stepPulse (hlive : s.live = true) (hpaused : s.paused = true) :
    fire (.host .stepPulse) s = cpuStep s := by
  simp [fire, hostAction, hlive, hpaused]

theorem fire_stepPulse_of_not_paused (hpaused : s.paused = false) :
    fire (.host .stepPulse) s = .next s := by
  simp [fire, hostAction, hpaused]

theorem fire_cpu_of_paused (hpaused : s.paused = true) : fire .cpu s = .next s := by
  simp [fire, hpaused]

/-- The value of a timer after a tick (R168). -/
theorem timerTick_toNat (b : Byte) : (if b = 0 then 0 else b - 1).toNat = b.toNat - 1 := by
  split
  · next hzero => rw [hzero]; rfl
  · next hne => bv_omega

/-- The sound output stays active while ST was above 1 (R183, decision D22). -/
theorem State.sndActive_timerTick_iff : s.timerTick.sndActive = true ↔ s.st.toNat > 1 := by
  rw [State.sndActive_iff, ne_eq, ← BitVec.toNat_inj, State.timerTick_st, timerTick_toNat]
  exact Nat.sub_ne_zero_iff_lt

/-! The queued events on a machine that is fatal or shut down (R163, R181) -/

/-- The events that only a live machine takes; the others drive an input, request the shutdown or reset. -/
def needsLive : Event → Bool
  | .cpu | .tick | .present | .pass _ | .host .stepPulse | .host (.setPause _) => true
  | .host _ => false

theorem fire_of_not_live {e : Event} (hdead : s.live = false) (he : needsLive e = true) :
    fire e s = .next s := by
  cases e with
  | cpu | tick | present | pass => simp [fire, hdead]
  | host a =>
    cases a with
    | stepPulse | setPause => simp [fire, hostAction, hdead]
    | setKeys | setStraps | supplyRnd | quit | reset => exact nomatch he

theorem State.live_of_fatal {cause : Cause} {a : Word} (h : s.status = .fatal cause a) :
    s.live = false := by
  simp [State.live, h]

theorem State.live_of_quit (h : s.quit = true) : s.live = false := by
  simp [State.live, h]

/-- Only the inputs and the quit request differ. -/
abbrev State.SameButInputs (s t : State) : Prop :=
  t = { s with keys := t.keys, straps := t.straps, rndQueue := t.rndQueue, quit := t.quit }

/-- Every event but a reset leaves the state of a machine that is not live as it was. -/
theorem fire_sameButInputs {e : Event} (hdead : s.live = false)
    (he : ∀ rom now, e ≠ .host (.reset rom now)) : ∃ t, fire e s = .next t ∧ s.SameButInputs t := by
  cases e with
  | cpu | tick | present | pass => exact ⟨s, fire_of_not_live hdead rfl, rfl⟩
  | host a =>
    cases a with
    | stepPulse | setPause => exact ⟨s, fire_of_not_live hdead rfl, rfl⟩
    | setKeys | setStraps | supplyRnd | quit => exact ⟨_, rfl, rfl⟩
    | reset rom now => exact absurd rfl (he rom now)

/-! The step that faults -/

theorem fire_ne_fault (e : Event) (s : State) (f : Fault) : fire e s ≠ .fault f := by
  cases e with
  | cpu =>
    simp only [fire]
    split
    · exact cpuStep_ne_fault s f
    · exact nofun
  | tick | present | pass => exact nofun
  | host a =>
    cases a with
    | stepPulse =>
      simp only [fire, hostAction]
      split
      · exact cpuStep_ne_fault s f
      · exact nofun
    | reset rom now =>
      simp only [fire, hostAction]
      split
      · exact nofun
      · exact nofun
    | setKeys | setStraps | supplyRnd | setPause | quit => exact nofun

/-- With nothing queued, a running machine takes the CPU event (log 1). -/
theorem step_of_running (hnil : s.agenda = []) (hrunning : s.status = .running) : step s = fire .cpu s := by
  simp [step, nextEvent, hnil, idleEvent, hrunning]

/-- Only the idle machine in a fatal state answers a fault (R163). -/
theorem step_fault_status {f : Fault} (h : step s = .fault f) : ∃ cause a, s.status = .fatal cause a := by
  cases hagenda : s.agenda with
  | cons e rest => exact absurd ((step_of_agenda hagenda).symm.trans h) (fire_ne_fault e _ f)
  | nil =>
    cases hstatus : s.status with
    | fatal cause a => exact ⟨cause, a, rfl⟩
    | running => exact absurd ((step_of_running hagenda hstatus).symm.trans h) (fire_ne_fault .cpu s f)

/-! The reset sequence (R176; 70_reset_and_hazards.md R190) -/

/-- A queued reset with an image that fits runs the reset sequence. -/
theorem fire_reset {rom : List Byte} (hfit : rom.length ≤ maxImage) (now : Rat) :
    fire (.host (.reset rom now)) s = .next (s.resetSequence rom now) := if_pos hfit

section resetSequence

variable (s : State) (rom : List Byte) (now : Rat)

theorem State.getV_resetSequence (k : Reg) : (s.resetSequence rom now).getV k = 0 :=
  Vector.getElem_replicate _

theorem State.stackEntry_resetSequence (k : Nat) : (s.resetSequence rom now).stackEntry k = 0 :=
  List.getElem?_getD_replicate_default_eq 0 _ k

/-- Memory after a reset: the image, and the reset contents everywhere else. -/
theorem State.byteAt_resetSequence (a : Nat) : (s.resetSequence rom now).byteAt a =
    if progBase ≤ a ∧ a < progBase + rom.length then rom.getD (a - progBase) 0 else unlistedByte s.cfg a :=
  Memory.read_load s.cfg [] progBase rom a

variable {s rom}

theorem State.byteAt_resetSequence_image {k : Nat} (hk : k < rom.length) :
    (s.resetSequence rom now).byteAt (progBase + k) = rom[k] := by
  rw [State.byteAt_resetSequence, if_pos (by omega), Nat.add_sub_cancel_left, List.getD_eq_getElem _ _ hk]

theorem State.byteAt_resetSequence_beyond {a : Nat} (ha : a < progBase ∨ progBase + rom.length ≤ a) :
    (s.resetSequence rom now).byteAt a = unlistedByte s.cfg a := by
  rw [State.byteAt_resetSequence, if_neg (by omega)]

/-- A legal font ends below the program, so the image leaves it whole (20_memory.md R42). -/
theorem State.byteAt_resetSequence_font (hlegal : s.cfg.Legal) {k : Nat} (hk : k < 80) :
    (s.resetSequence rom now).byteAt (s.cfg.fontBase + k) = s.cfg.font[k] := by
  obtain ⟨-, -, hbase, -, -⟩ := hlegal
  rw [State.byteAt_resetSequence_beyond now (.inl (by omega)), unlistedByte_font s.cfg hk]

end resetSequence

/-! The scheduler pass (R171 to R173; decisions D19, D21) -/

/-- LAST moves from `last` to `last'` by `n` periods, which end by `now`; one more would not. -/
abbrev MovesByWholePeriods (hz last now : Rat) (n : Nat) (last' : Rat) : Prop :=
  last' = last + n / hz ∧ last' ≤ now ∧ now < last' + 1 / hz

/-- The number of periods owed is the floor of the periods elapsed. -/
theorem ticksOwed_eq_floor (hz last now : Rat) : ticksOwed hz last now = ⌊(now - last) * hz⌋₊ := by
  have helapsed : (now - last) / period hz = (now - last) * hz := by
    rw [period, div_div_eq_mul_div, div_one]
  rw [ticksOwed, helapsed]
  exact Int.floor_toNat ((now - last) * hz)

theorem movesByWholePeriods_ticksOwed {hz last now : Rat} (hhz : 0 < hz) (hlast : last ≤ now) :
    MovesByWholePeriods hz last now (ticksOwed hz last now)
      (last + ticksOwed hz last now * period hz) := by
  have helapsed : 0 ≤ (now - last) * hz := mul_nonneg (sub_nonneg.mpr hlast) hhz.le
  rw [ticksOwed_eq_floor, period, mul_one_div]
  refine ⟨rfl, ?_, ?_⟩
  · have hle := (div_le_iff₀ hhz).mpr (Nat.floor_le helapsed)
    linarith
  · have hlt := (lt_div_iff₀ hhz).mpr (Nat.lt_floor_add_one ((now - last) * hz))
    rw [add_div] at hlt
    linarith

/-- A CPU domain that is not paused moves like the other two. -/
theorem State.schedulerPass_cpu {now : Rat} (hpaused : s.paused = false) (hhz : 0 < s.cfg.cpuHz)
    (hlast : s.last.cpu ≤ now) :
    MovesByWholePeriods s.cfg.cpuHz s.last.cpu now (s.cpuOwed now) (s.schedulerPass now).last.cpu := by
  simpa [State.schedulerPass, State.cpuOwed, hpaused] using movesByWholePeriods_ticksOwed hhz hlast

theorem State.schedulerPass_cpu_of_paused {now : Rat} (hpaused : s.paused = true) :
    s.cpuOwed now = 0 ∧ (s.schedulerPass now).last.cpu = now := ⟨if_pos hpaused, if_pos hpaused⟩

theorem State.schedulerPass_agenda (now : Rat) : (s.schedulerPass now).agenda =
    List.replicate (s.cpuOwed now) .cpu ++ (List.replicate (s.timerOwed now) .tick ++
      (List.replicate (s.frameOwed now) .present ++ s.agenda)) := by
  simp [State.schedulerPass]

end Sys2Proof.Machine
end

section
/-! The statements of the family 60_exceptions.md, each from the lemmas above. -/

namespace Sys2Proof.Spec

open Sys2Proof.Machine

/-- Settles O14: the push fails, and the only change is STATUS. -/
theorem callOnFullStackIsFatal : Obligations.CallOnFullStackIsFatal := by
  unfold Obligations.CallOnFullStackIsFatal
  intro s nnn hfull
  obtain ⟨a, hfatal⟩ := s.takeFatal_spec .stackOverflow
  exact ⟨_, a, execCall_of_full s hfull, hfatal⟩

/-- Settles O16: the pop fails, and the only change is STATUS. -/
theorem returnOnEmptyStackIsFatal : Obligations.ReturnOnEmptyStackIsFatal := by
  unfold Obligations.ReturnOnEmptyStackIsFatal
  intro s hempty
  obtain ⟨a, hfatal⟩ := s.takeFatal_spec .stackUnderflow
  exact ⟨_, a, execRet_of_empty s hempty, hfatal⟩

/-- Settles O46: a fatal machine is not live, so it drops every event that is not the host's input. -/
theorem fatalStateIsTerminal : Obligations.FatalStateIsTerminal := by
  unfold Obligations.FatalStateIsTerminal
  intro s cause a hfatal
  have hinfo := s.fatalInfo_of_fatal hfatal
  refine ⟨s.fatalOut_iff.mpr ⟨cause, a, hfatal⟩, ?_, ?_, fun hnil => ⟨?_, ?_⟩, fun e rest hagenda he => ?_⟩
  · rintro rfl; exact hinfo
  · rintro rfl; exact hinfo
  · rintro rfl; exact step_of_fatal hnil hfatal
  · rintro rfl; exact step_of_fatal hnil hfatal
  · rw [step_of_agenda hagenda]
    exact fire_sameButInputs (State.live_of_fatal hfatal) he

/-- Settles O47: the registers by the reset sequence, the memory by the image over the reset contents. -/
theorem resetRestoresEveryPieceOfState : Obligations.ResetRestoresEveryPieceOfState := by
  unfold Obligations.ResetRestoresEveryPieceOfState
  intro s rom now rest hagenda hfit hlegal
  exact ⟨_, (step_of_agenda hagenda).trans (fire_reset hfit now), rfl, State.getV_resetSequence _ rom now,
    rfl, rfl, State.stackEntry_resetSequence _ rom now, List.length_replicate, rfl, rfl,
    Framebuffer.cell_blank _ _, rfl, rfl, rfl, rfl, rfl, rfl, rfl, rfl,
    fun k hk => State.byteAt_resetSequence_image now hk,
    fun k hk => State.byteAt_resetSequence_font now hlegal hk,
    fun a hfont himage => (State.byteAt_resetSequence_beyond now himage).trans
      (unlistedByte_of_not_font s.cfg hfont)⟩

/-- Settles O51: in each domain the events issued are the periods owed, which leave less than one. -/
theorem schedulerPassIssuesWholePeriods : Obligations.SchedulerPassIssuesWholePeriods := by
  unfold Obligations.SchedulerPassIssuesWholePeriods
  intro s now rest hagenda hrunning hquit hlegal hcpu htimer hframe
  obtain ⟨-, -, -, hcpuHz, hframeHz⟩ := hlegal
  have hpass := (step_of_agenda hagenda).trans
    (fire_pass (s := { s with agenda := rest }) (State.live_iff.mpr ⟨hrunning, hquit⟩) now)
  obtain ⟨htimerEq, htimerLe, htimerLt⟩ := movesByWholePeriods_ticksOwed (hz := 60) (by norm_num) htimer
  obtain ⟨hframeEq, hframeLe, hframeLt⟩ := movesByWholePeriods_ticksOwed hframeHz hframe
  exact ⟨_, s.cpuOwed now, s.timerOwed now, s.frameOwed now, hpass, State.schedulerPass_agenda now,
    fun hpaused => State.schedulerPass_cpu_of_paused (s := { s with agenda := rest }) hpaused,
    fun hpaused => State.schedulerPass_cpu (s := { s with agenda := rest }) hpaused hcpuHz hcpu,
    htimerEq, htimerLe, htimerLt, hframeEq, hframeLe, hframeLt, rfl⟩

/-- Settles O57: the statuses an instruction leaves, and the one step that faults. -/
theorem onlyTwoConditionsAreFatal : Obligations.OnlyTwoConditionsAreFatal := by
  unfold Obligations.OnlyTwoConditionsAreFatal
  refine ⟨exec_ne_fault, fun i s t h hstatus => ?_, fun s f => step_fault_status, State.fatalOut_iff⟩
  cases i with
  | call nnn =>
    exact .inl ⟨nnn, rfl, not_imp_comm.mp (fun hroom => execCall_status_of_room hroom h) hstatus⟩
  | ret => exact .inr ⟨rfl, not_imp_comm.mp (fun hsp => execRet_status_of_entries hsp h) hstatus⟩
  | _ => exact absurd (exec_status h rfl) hstatus

/-- Settles O44: both timers by the clamped decrement, the sound output read off the new ST. -/
theorem timerTickDecrementsAndClamps : Obligations.TimerTickDecrementsAndClamps := by
  unfold Obligations.TimerTickDecrementsAndClamps
  intro s rest hagenda hrunning hquit
  exact ⟨_, (step_of_agenda hagenda).trans (fire_tick (State.live_iff.mpr ⟨hrunning, hquit⟩)),
    timerTick_toNat s.dt, timerTick_toNat s.st, State.sndActive_timerTick_iff, rfl, fun _ => rfl⟩

/-- Settles O45: the presentation is one output event. -/
theorem presentationHandsOverSnapshot : Obligations.PresentationHandsOverSnapshot := by
  unfold Obligations.PresentationHandsOverSnapshot
  intro s rest hagenda hrunning hquit
  exact ⟨_, (step_of_agenda hagenda).trans (fire_present (State.live_iff.mpr ⟨hrunning, hquit⟩)), rfl, rfl⟩

/-- Settles O50: each clause is the queued event on a live machine; the tick is that of O44. -/
theorem pauseGatesOnlyCpuSteps : Obligations.PauseGatesOnlyCpuSteps := by
  unfold Obligations.PauseGatesOnlyCpuSteps
  intro s rest hrunning hquit
  have hlive : { s with agenda := rest }.live = true := State.live_iff.mpr ⟨hrunning, hquit⟩
  refine ⟨fun hpaused => ⟨fun hnil => step_of_idle hnil hrunning (.inl hpaused),
      fun hcpu => (step_of_agenda hcpu).trans (fire_cpu_of_paused hpaused),
      fun hpulse => (step_of_agenda hpulse).trans (fire_stepPulse hlive hpaused), fun htick => ?_,
      fun hpresent => (step_of_agenda hpresent).trans (fire_present hlive)⟩,
    fun hpaused hpulse => (step_of_agenda hpulse).trans (fire_stepPulse_of_not_paused hpaused),
    fun level hpause => (step_of_agenda hpause).trans (fire_setPause hlive level)⟩
  obtain ⟨t, hstep, hdt, hst, -, hframe, -⟩ := timerTickDecrementsAndClamps s rest htick hrunning hquit
  exact ⟨t, hstep, hdt, hst, hframe⟩

/-- Settles O52: the quit request is written at once, and a machine that has quit is not live. -/
theorem quitStopsEveryEvent : Obligations.QuitStopsEveryEvent := by
  unfold Obligations.QuitStopsEveryEvent
  intro s rest
  refine ⟨fun hagenda => step_of_agenda hagenda, fun hquit =>
    ⟨fun hrunning hnil => step_of_idle hnil hrunning (.inr hquit), fun e he hagenda => ?_⟩⟩
  have hneeds : needsLive e = true := by
    rcases he with rfl | rfl | rfl | ⟨now, rfl⟩ | rfl | ⟨level, rfl⟩ <;> rfl
  exact (step_of_agenda hagenda).trans (fire_of_not_live (State.live_of_quit hquit) hneeds)

end Sys2Proof.Spec
end

section
/-! The jump to itself (70_reset_and_hazards.md R198): an address that is fetched from fits in JP's field, so
JP takes back the advance of fetch. -/

namespace Sys2Proof.Machine

variable {s : State}

theorem State.pc_le_of_fetch {op : Word} (h : s.fetch = some op) : s.pc.toNat ≤ 0xFFE := by
  by_contra hgt
  rw [State.fetch_of_gt (Nat.not_le.mp hgt)] at h
  cases h

/-- A PC that fetches is the target of a jump. -/
theorem State.exists_zext16_of_fetch {op : Word} (h : s.fetch = some op) : ∃ nnn, zext16 nnn = s.pc := by
  have hpc := State.pc_le_of_fetch h
  refine ⟨BitVec.ofNat 12 s.pc.toNat, BitVec.eq_of_toNat_eq ?_⟩
  rw [zext16_toNat, BitVec.toNat_ofNat, Nat.mod_eq_of_lt (by omega)]

/-- The word 0x1000 + a is JP to a (40_flow.md R82). -/
theorem decodeWord_jp (nnn : Addr12) : decodeWord (0x1000#16 + zext16 nnn) = .jp nnn := by
  have hword : 0x1000#16 + zext16 nnn = encode (.jp nnn) := by
    rw [encode_jp, BitVec.ofNat_add, ← zext16_toNat nnn, BitVec.ofNat_toNat, BitVec.setWidth_eq]
  rw [hword]
  exact decodeWord_encode rfl

/-- A jump back to the address fetched from takes back the advance of fetch. -/
theorem execJp_advancePc {nnn : Addr12} (h : zext16 nnn = s.pc) : execJp nnn s.advancePc = .next s := by
  rw [execJp, h]
  rfl

end Sys2Proof.Machine
end

section
/-! The statement of the family 70_reset_and_hazards.md, from the lemmas above. -/

namespace Sys2Proof.Spec

open Sys2Proof.Machine

/-- Settles O60: the fetched word is JP to the address it was fetched from, which restores the PC that fetch
advanced. -/
theorem selfJumpChangesNothing : Obligations.SelfJumpChangesNothing := by
  unfold Obligations.SelfJumpChangesNothing
  rintro s hnext ⟨-, hword⟩
  have hfetch : s.fetch = some (0x1000#16 + s.pc) := hword
  obtain ⟨nnn, htarget⟩ := State.exists_zext16_of_fetch hfetch
  have hjp : decodeWord (0x1000#16 + s.pc) = .jp nnn := htarget ▸ decodeWord_jp nnn
  calc step s = cpuStep s := step_of_cpuNext hnext
    _ = exec (decodeWord (0x1000#16 + s.pc)) s.advancePc := cpuStep_of_fetch hfetch
    _ = exec (.jp nnn) s.advancePc := by rw [hjp]
    _ = .next s := execJp_advancePc htarget

end Sys2Proof.Spec
end
